-- ==== Sys2Proof/Word.lean ====
section
/-! DEFINITION. The word types of the CC1 frame-codec core: bytes (R9). -/

namespace Sys2Proof

/-- A byte: an unsigned value 0..255, bit 0 the least significant (R8, R9). -/
abbrev Byte := BitVec 8

end Sys2Proof
end

