-- ==== Sys2Proof/Config.lean ====
section
/-! DEFINITION. What an implementation fixes (00_scope.md R6, R7): the source's constants, the parameters a model takes as
arguments, and the parameters the spec leaves OPEN (opaque: nothing can be proved of their values). -/

namespace Sys2Proof

/-- The parameters of R7 that choose a value or a check. Every operation that depends on one takes it as an argument. The
sizes R7 names are arguments of their own, of the operations on BUF, ARG, OUT, CMD and the instance registers. -/
structure Params where
  /-- CRC_POLY (R69). -/
  crcPoly : Byte
  /-- CRC_ZERO_ALT (R72). -/
  crcZeroAlt : Byte
  /-- ALERT_CHECK_ALL_RES (R103). -/
  alertCheckAllRes : Bool
  /-- PAC_CHECK_RES2 (R104). -/
  pacCheckRes2 : Bool
deriving DecidableEq, Repr

namespace Config

/-! ### Sizes (R7). An operation on a memory, register file or word of such a size takes the size as an argument; State's types
have the values given here. -/

/-- BUF_BYTES (R7, R18): the size the operations on BUF take. -/
abbrev bufBytes : Nat := 8

/-- ARG_BYTES (R7, R19). -/
abbrev argBytes : Nat := 9

/-- OUT_BYTES (R7, R20). -/
abbrev outBytes : Nat := 9

/-- CMD_WIDTH (R7, R45): the width the decoder and the encoder take. -/
abbrev cmdWidth : Nat := 32

/-- INSTANCES_PER_VARIANT (R7, R26): how many instance registers State has of each variant. -/
abbrev instancesPerVariant : Nat := 1

end Config

/-- A command word as the host writes it to CMD (R23, R45). -/
abbrev CmdWord := BitVec Config.cmdWidth

namespace Config

/-! ### Values -/

/-- PAC_CHECK_RES2 is OPEN (R7, D17): a free Boolean. DESIGN CHOICE, safe: no value is assumed (log 6). -/
opaque pacCheckRes2 : Bool

/-- BUF_BASE is OPEN (R38): the platform address of BUF[0]. No rule depends on it. Safe (log 7). -/
opaque bufBase : Nat

/-- LATENCY is OPEN (R130): how long a command takes, finite. No rule depends on it. Safe (log 7). -/
opaque latency : CmdWord → Nat

/-- The values R7 gives. The spec marks CRC_POLY as general knowledge and CRC_ZERO_ALT and ALERT_CHECK_ALL_RES as values to
take where the source gives none: UNVERIFIED, unsafe for an implementation with others (logs 3, 4, 5). -/
def params : Params :=
  { crcPoly := 0x37, crcZeroAlt := 0x80, alertCheckAllRes := false, pacCheckRes2 := pacCheckRes2 }

/-- FRAME_PAYLOAD_BYTES (R6): the type byte included. -/
abbrev framePayloadBytes : Nat := 7

/-- FRAME_BYTES (R6): the payload and one checksum byte. -/
abbrev frameBytes : Nat := 8

/-- TYPE_ALERT, `!` (R6, R56). -/
abbrev typeAlert : Byte := 0x21

/-- TYPE_POLLCMD, `?` (R6, R56). -/
abbrev typePollCmd : Byte := 0x3F

/-- TYPE_POLLRESP, `*` (R6, R56). -/
abbrev typePollResp : Byte := 0x2A

/-- HC_INVALID, the sentinel house-code byte (R6, R57). -/
abbrev hcInvalid : Byte := 0xFF

/-- The value of a reserved payload byte (R58, R61). -/
abbrev reservedByte : Byte := 0x01

end Config
end Sys2Proof
end

