-- ==== Sys2Proof/Syntax.lean ====
section
/-! DEFINITION. The commands of the block (30_encoding.md R46): one constructor per row of spec/opcode_table.json. Each
carries the operand fields of its command word (R45): LEN as a number, CK and NB as Booleans. The fields R48 lets a
command ignore are carried too, so that a legal word and its instruction say the same; no meaning reads them (log 12). -/

namespace Sys2Proof

/-- The 18 commands (R46). `.x` of a mnemonic names the variant (R47): A Alert, P PollAndCommand, R PollResponse. -/
inductive Instr where
  | crc7   (len : Nat) (ck nb : Bool)
  | makeA  (len : Nat) (ck nb : Bool)
  | makeP  (len : Nat) (ck nb : Bool)
  | makeR  (len : Nat) (ck nb : Bool)
  | encA   (len : Nat) (ck nb : Bool)
  | encP   (len : Nat) (ck nb : Bool)
  | encR   (len : Nat) (ck nb : Bool)
  | decA   (len : Nat) (ck nb : Bool)
  | decP   (len : Nat) (ck nb : Bool)
  | decR   (len : Nat) (ck nb : Bool)
  | validA (len : Nat) (ck nb : Bool)
  | validP (len : Nat) (ck nb : Bool)
  | validR (len : Nat) (ck nb : Bool)
  | gethcA (len : Nat) (ck nb : Bool)
  | gethcP (len : Nat) (ck nb : Bool)
  | gethcR (len : Nat) (ck nb : Bool)
  | getfP  (len : Nat) (ck nb : Bool)
  | getfR  (len : Nat) (ck nb : Bool)
deriving DecidableEq, Repr

end Sys2Proof
end

