-- ==== Sys2Proof/WellFormed.lean ====
section
/-! DEFINITION. Which instructions a command word can say: LEN is an 8-bit field, 0..255 (R31, R45, R51). -/

namespace Sys2Proof

/-- LEN of an instruction (R45). -/
def Instr.len : Instr → Nat
  | .crc7 l _ _ | .makeA l _ _ | .makeP l _ _ | .makeR l _ _ | .encA l _ _ | .encP l _ _ | .encR l _ _
  | .decA l _ _ | .decP l _ _ | .decR l _ _ | .validA l _ _ | .validP l _ _ | .validR l _ _
  | .gethcA l _ _ | .gethcP l _ _ | .gethcR l _ _ | .getfP l _ _ | .getfR l _ _ => l

/-- CK of an instruction (R45). -/
def Instr.ck : Instr → Bool
  | .crc7 _ c _ | .makeA _ c _ | .makeP _ c _ | .makeR _ c _ | .encA _ c _ | .encP _ c _ | .encR _ c _
  | .decA _ c _ | .decP _ c _ | .decR _ c _ | .validA _ c _ | .validP _ c _ | .validR _ c _
  | .gethcA _ c _ | .gethcP _ c _ | .gethcR _ c _ | .getfP _ c _ | .getfR _ c _ => c

/-- NB of an instruction (R45). -/
def Instr.nb : Instr → Bool
  | .crc7 _ _ n | .makeA _ _ n | .makeP _ _ n | .makeR _ _ n | .encA _ _ n | .encP _ _ n | .encR _ _ n
  | .decA _ _ n | .decP _ _ n | .decR _ _ n | .validA _ _ n | .validP _ _ n | .validR _ _ n
  | .gethcA _ _ n | .gethcP _ _ n | .gethcR _ _ n | .getfP _ _ n | .getfR _ _ n => n

/-- An instruction a command word can hold: LEN fits its 8 bits (R31, R45). -/
abbrev Instr.WellFormed (i : Instr) : Prop := i.len ≤ 255

end Sys2Proof
end

