-- ==== Sys2Proof/Decode.lean ====
section
/-! DEFINITION. The command word (30_encoding.md Part A): its fields (R45), the opcode map (R46), the decode procedure
(R50), the illegal words by name (R49), and the encoder. -/

namespace Sys2Proof

/-- Why a word is illegal (R49). -/
inductive DecodeError where
  /-- RSV, bits 31:18, is not 0. -/
  | reservedBits
  /-- OP is none of the 18 codes of R46. -/
  | unassignedOp
deriving DecidableEq, Repr

section
variable {n : Nat} (w : BitVec n)

/-- OP, bits 7:0 (R45). -/
def opField : BitVec 8 := w.extractLsb' 0 8

/-- LEN, bits 15:8 (R45). -/
def lenField : Nat := (w.extractLsb' 8 8).toNat

/-- CK, bit 16 (R45). -/
def ckField : Bool := w.getLsbD 16

/-- NB, bit 17 (R45). -/
def nbField : Bool := w.getLsbD 17

/-- RSV, every bit from 18 on: bits 31:18 of a 32-bit word (R45). -/
def rsvField : BitVec (n - 18) := w.extractLsb' 18 (n - 18)

end

/-- The opcode map (R46): the command an operation code names, as a function of LEN, CK and NB. -/
def commandOf (op : BitVec 8) : Option (Nat → Bool → Bool → Instr) :=
  match op with
  | 0x01#8 => some .crc7
  | 0x10#8 => some .makeA
  | 0x11#8 => some .makeP
  | 0x12#8 => some .makeR
  | 0x20#8 => some .encA
  | 0x21#8 => some .encP
  | 0x22#8 => some .encR
  | 0x30#8 => some .decA
  | 0x31#8 => some .decP
  | 0x32#8 => some .decR
  | 0x40#8 => some .validA
  | 0x41#8 => some .validP
  | 0x42#8 => some .validR
  | 0x50#8 => some .gethcA
  | 0x51#8 => some .gethcP
  | 0x52#8 => some .gethcR
  | 0x61#8 => some .getfP
  | 0x62#8 => some .getfR
  | _ => none

/-- The decode procedure (R50), total on every word of n bits (CMD_WIDTH, R7). -/
def decodeWord {n : Nat} (w : BitVec n) : Except DecodeError Instr :=
  if rsvField w ≠ 0 then .error .reservedBits
  else
    match commandOf (opField w) with
    | none => .error .unassignedOp
    | some mk => .ok (mk (lenField w) (ckField w) (nbField w))

/-- The decode procedure (R50) on a word of CMD. -/
def decode (w : CmdWord) : Except DecodeError Instr := decodeWord w

/-- The operation code of a command (R46). -/
def Instr.opcode : Instr → BitVec 8
  | .crc7 _ _ _ => 0x01
  | .makeA _ _ _ => 0x10
  | .makeP _ _ _ => 0x11
  | .makeR _ _ _ => 0x12
  | .encA _ _ _ => 0x20
  | .encP _ _ _ => 0x21
  | .encR _ _ _ => 0x22
  | .decA _ _ _ => 0x30
  | .decP _ _ _ => 0x31
  | .decR _ _ _ => 0x32
  | .validA _ _ _ => 0x40
  | .validP _ _ _ => 0x41
  | .validR _ _ _ => 0x42
  | .gethcA _ _ _ => 0x50
  | .gethcP _ _ _ => 0x51
  | .gethcR _ _ _ => 0x52
  | .getfP _ _ _ => 0x61
  | .getfR _ _ _ => 0x62

/-- A word of n bits (CMD_WIDTH, R7) from its fields, RSV = 0 (R45). -/
def wordOf (op : BitVec 8) (len : Nat) (ck nb : Bool) (n : Nat := Config.cmdWidth) : BitVec n :=
  (BitVec.ofBool nb ++ BitVec.ofBool ck ++ BitVec.ofNat 8 len ++ op).setWidth n

/-- The command word of an instruction (R45, R46). -/
def encode (i : Instr) : CmdWord := wordOf i.opcode i.len i.ck i.nb

/-- What the decoder reads from the low nbits bits of w, a word of CMD (R45: every command word has 32 bits). -/
def decodeTableWord (nbits w : Nat) : Option Instr := (decode (BitVec.ofNat Config.cmdWidth (w % 2 ^ nbits))).toOption

end Sys2Proof
end

