-- ==== Sys2Proof/Machine/State.lean ====
section
/-! DEFINITION. The architectural state of the block (10_state.md), its reset values (R25), the host's accesses (R27, R53)
and the reasons a step can stop. -/

namespace Sys2Proof
namespace Machine

/-- The Alert message held by INST_A (R13). -/
@[ext] structure Alert where
  hc1 : Byte
  hc2 : Byte
deriving DecidableEq, Repr

/-- The PollAndCommand message held by INST_P, fields as logical values (R14, R15). -/
@[ext] structure PollCmd where
  hc1 : Byte
  hc2 : Byte
  /-- rad-open-percent, legal 0..100 -/
  rp : BitVec 7
  /-- light-colour, 0..3 -/
  lc : BitVec 2
  /-- light-on-time, legal 1..15 -/
  lt : BitVec 4
  /-- light-flash, legal 1..3 -/
  lf : BitVec 2
deriving DecidableEq, Repr

/-- The PollResponse message held by INST_R, fields as logical values (R15). -/
@[ext] structure PollResp where
  hc1 : Byte
  hc2 : Byte
  /-- relative-humidity, legal 0..50 -/
  rh : BitVec 6
  /-- pipe-temperature, legal 0..199 -/
  tp : Byte
  /-- room-temperature, legal 0..199 -/
  tr : Byte
  /-- ambient-light, legal 1..62 -/
  al : BitVec 6
  /-- switch flag -/
  s : Bool
  /-- window flag -/
  w : Bool
  /-- syncing flag -/
  sy : Bool
deriving DecidableEq, Repr

/-- The frame buffer BUF (R18, R29): the bytes written so far, addresses strictly rising. An address that is not listed
reads as nothing: an unspecified byte (R28). -/
abbrev Memory := List Host.Cell

/-- One access of the host on the block's port (R27, R53). DESIGN CHOICE: an access is a datum of the model (log 1). -/
inductive HostAccess where
  /-- A word written to CMD, issued as one command (R23). -/
  | command (w : CmdWord)
  /-- `wbuf`: one byte of BUF (R27, R53). -/
  | writeBuf (i : Nat) (v : Byte)
  /-- `warg`: one byte of ARG (R27, R53). -/
  | writeArg (i : Nat) (v : Byte)
  /-- A write to STATUS, which is ignored (R22). -/
  | writeStatus (v : Byte)
  /-- A write to OUT[i]. R119 speaks of one; R27 gives the host reads of OUT only, and no rule says what a write does. DESIGN
  CHOICE: it faults (log 19). -/
  | writeOut (i : Nat) (v : Byte)
  /-- A write to RES. R119 speaks of one; R27 gives the host reads of RES only, and no rule says what a write does. DESIGN
  CHOICE: it faults (log 19). -/
  | writeRes (v : Byte)
  /-- `rd BUF[i]` (R27, R53). -/
  | readBuf (i : Nat)
  /-- A read of ARG[i] (R27). -/
  | readArg (i : Nat)
  /-- `rd OUT[i]` (R27, R53). -/
  | readOut (i : Nat)
  /-- `rd RES` (R27, R53). -/
  | readRes
  /-- `rd STATUS` (R27, R53). -/
  | readStatus
  /-- A read of CMD, which the spec does not define (R23). -/
  | readCmd
  /-- `reset` (R53, R123). -/
  | reset
  /-- Reset arriving while the command w runs (R123; log 13). -/
  | resetDuring (w : CmdWord)
deriving DecidableEq, Repr

/-- The state of the block (10_state.md), and three fields of the model: port, readData, resetDone. -/
@[ext]
structure State where
  /-- INST_A (R13): the Alert instances, INSTANCES_PER_VARIANT of them (R7), of which the first is INST_A. -/
  instAs : Vector Alert Config.instancesPerVariant
  /-- INST_P (R14), likewise. -/
  instPs : Vector PollCmd Config.instancesPerVariant
  /-- INST_R (R15), likewise. -/
  instRs : Vector PollResp Config.instancesPerVariant
  /-- BUF[0..7] (R18). -/
  buf : Memory
  /-- ARG[0..8] (R19). -/
  arg : Vector Byte Config.argBytes
  /-- OUT[0..8] (R20). -/
  out : Vector Byte Config.outBytes
  /-- RES (R21). -/
  res : Byte
  /-- STATUS (R22), read through statusView. -/
  status : Byte
  /-- The host accesses issued and not yet served, oldest first (R40). DESIGN CHOICE (log 1). -/
  port : List HostAccess
  /-- The byte the last host read returned; none while the host has read nothing. DESIGN CHOICE (log 8). -/
  readData : Option Byte
  /-- Whether reset was applied since power-up (R125). DEDUCED (log 9). -/
  resetDone : Bool
deriving DecidableEq, Repr

/-- Why the machine is stuck. Each is safe: the model stops where the spec gives no result. -/
inductive Fault where
  /-- A command or the host read BUF[addr], which nothing has written since reset (R28, U1, D20). Raised by CRC7, DEC.x
  and a host read of BUF. Safe (log 2). -/
  | unspecifiedByte (addr : Nat)
  /-- The host addressed BUF, ARG or OUT past its last byte, where nothing is (R18 to R20, R38). Raised by a host access.
  Safe (log 11). -/
  | noSuchLocation (index : Nat)
  /-- The host read CMD: "No later read of it is defined" (R23). Raised by a host access. Safe (log 11). -/
  | commandPortRead
  /-- The host wrote OUT or RES, which R27 lets it read only: no rule says what the write does (log 19). Raised by a host
  access. Safe. -/
  | resultWrite
  /-- The host used the block before the first reset after power-up (R125, U2). Raised by a host access. Safe (log 9). -/
  | beforeReset
deriving DecidableEq, Repr

/-- Why a step has no meaning. No arm of exec and no operation answers with it: every command is modelled. Safe. -/
inductive Refusal where
  /-- exec's arm for an instruction without a meaning. -/
  | notModelled (mnemonic : String)
deriving DecidableEq, Repr

/-- The outcome of a step or of an instruction. -/
abbrev Result := Host.Outcome State Fault Refusal

/-- The state right after reset (R25). port and readData are the model's own (logs 1, 8). -/
def State.reset : State :=
  { instAs := Vector.replicate Config.instancesPerVariant { hc1 := 0xFF, hc2 := 0xFF }
    instPs := Vector.replicate Config.instancesPerVariant { hc1 := 0xFF, hc2 := 0xFF, rp := 0, lc := 0, lt := 1, lf := 1 }
    instRs :=
      Vector.replicate Config.instancesPerVariant
        { hc1 := 0xFF, hc2 := 0xFF, rh := 0, tp := 0, tr := 0, al := 1, s := false, w := false, sy := false }
    buf := []
    arg := Vector.replicate Config.argBytes 0
    out := Vector.replicate Config.outBytes 0
    res := 0
    status := 0
    port := []
    readData := none
    resetDone := true }

end Machine
end Sys2Proof
end

