-- ==== Sys2Proof/Machine/Ops.lean ====
section
/-! DEFINITION. The named operations over BUF and the registers: MemRead and MemWrite (R30), whole-frame reads (R33), the
register writes of the rules, raising IllegalCommand (R113) and reset (R123). -/

namespace Sys2Proof
namespace Machine

/-! ### BUF -/

/-- BUF[a], or none where the byte is unspecified (R28). -/
def Memory.read : Memory → Nat → Option Byte
  | [], _ => none
  | (b, v) :: m, a => if b = a then some v else Memory.read m a

/-- BUF with byte a set to v, addresses kept strictly rising. -/
def Memory.write : Memory → Nat → Byte → Memory
  | [], a, v => [(a, v)]
  | (b, u) :: m, a, v =>
    if a < b then (a, v) :: (b, u) :: m
    else if a = b then (a, v) :: m
    else (b, u) :: Memory.write m a v

/-- The canonical form of BUF: addresses strictly rising, and all of them below its size n (R7, R29). No byte equals what an unlisted
address reads as, since an unlisted address reads as no byte. -/
abbrev Memory.wf (m : Memory) (n : Nat := Config.bufBytes) : Prop :=
  m.Pairwise (fun c d => c.1 < d.1) ∧ ∀ c ∈ m, c.1 < n

/-- MemRead(a, 1) (R30) on a BUF of n bytes (R7): stuck on an unspecified byte (R28) and past BUF (R38). -/
def memRead (m : Memory) (a : Nat) (n : Nat := Config.bufBytes) : Except Fault Byte :=
  if a < n then
    match Memory.read m a with
    | some v => .ok v
    | none => .error (.unspecifiedByte a)
  else .error (.noSuchLocation a)

/-- MemWrite(a, 1, v) (R30) on a BUF of n bytes (R7): nothing is past BUF (R38). -/
def memWrite (m : Memory) (a : Nat) (v : Byte) (n : Nat := Config.bufBytes) : Except Fault Memory :=
  if a < n then .ok (Memory.write m a v) else .error (.noSuchLocation a)

/-- The payload of a frame: wire offsets 0 to 6, type byte included (R54, R55). -/
@[ext] structure Payload where
  b0 : Byte
  b1 : Byte
  b2 : Byte
  b3 : Byte
  b4 : Byte
  b5 : Byte
  b6 : Byte
deriving DecidableEq, Repr

/-- A frame with its checksum byte at offset 7 (R54, R55). -/
@[ext] structure Frame where
  payload : Payload
  check : Byte
deriving DecidableEq, Repr

/-- B[0..6] read at once (R33). A fault names the lowest unspecified byte (log 18). -/
def readPayload (m : Memory) (n : Nat := Config.bufBytes) : Except Fault Payload := do
  let b0 ← memRead m 0 n
  let b1 ← memRead m 1 n
  let b2 ← memRead m 2 n
  let b3 ← memRead m 3 n
  let b4 ← memRead m 4 n
  let b5 ← memRead m 5 n
  let b6 ← memRead m 6 n
  return { b0, b1, b2, b3, b4, b5, b6 }

/-- B[0..7] read at once (R33). -/
def readFrame (m : Memory) (n : Nat := Config.bufBytes) : Except Fault Frame := do
  let payload ← readPayload m n
  let check ← memRead m 7 n
  return { payload, check }

/-- `for i = 0 to 6: B[i] <- P[i]` (R91), each a MemWrite (R10). -/
def writePayload (m : Memory) (p : Payload) (n : Nat := Config.bufBytes) : Except Fault Memory := do
  let m ← memWrite m 0 p.b0 n
  let m ← memWrite m 1 p.b1 n
  let m ← memWrite m 2 p.b2 n
  let m ← memWrite m 3 p.b3 n
  let m ← memWrite m 4 p.b4 n
  let m ← memWrite m 5 p.b5 n
  memWrite m 6 p.b6 n

/-! ### Registers -/

/-- The instance register that the commands of a variant use (R47), of the n that the variant has (R7): the first. With the
value that R7 gives there is no other (R26). -/
def instanceOf {α : Type} {n : Nat} (file : Vector α n) (h : 0 < n := by decide) : α := file[0]

/-- The same register, written. -/
def setInstance {α : Type} {n : Nat} (file : Vector α n) (x : α) (h : 0 < n := by decide) : Vector α n := file.set 0 x

/-- INST_A (R13). -/
def State.instA (s : State) : Alert := instanceOf s.instAs

/-- INST_P (R14). -/
def State.instP (s : State) : PollCmd := instanceOf s.instPs

/-- INST_R (R15). -/
def State.instR (s : State) : PollResp := instanceOf s.instRs

/-- INST_A <- x. -/
def State.setInstA (s : State) (x : Alert) : State := { s with instAs := setInstance s.instAs x }

/-- INST_P <- x. -/
def State.setInstP (s : State) (x : PollCmd) : State := { s with instPs := setInstance s.instPs x }

/-- INST_R <- x. -/
def State.setInstR (s : State) (x : PollResp) : State := { s with instRs := setInstance s.instRs x }

/-- BUF <- m. -/
def State.setBuf (s : State) (m : Memory) : State := { s with buf := m }

/-- ARG[i] <- v. -/
def State.setArg (s : State) (i : Fin Config.argBytes) (v : Byte) : State := { s with arg := s.arg.set i v }

/-- A result file of n bytes (R7) with vs[i] in byte i for each i the list has; the other bytes keep their values (R20, R68). -/
def writeBytes {n : Nat} (out : Vector Byte n) (vs : List Byte) : Vector Byte n :=
  Vector.ofFn fun i => vs[i.val]?.getD out[i]

/-- OUT[i] <- vs[i] for each i the list has (R20, R68). -/
def State.setOut (s : State) (vs : List Byte) : State := { s with out := writeBytes s.out vs }

/-- RES <- v (R21). -/
def State.setRes (s : State) (v : Byte) : State := { s with res := v }

/-- STATUS <- v. -/
def State.setStatus (s : State) (v : Byte) : State := { s with status := v }

/-- The host accesses still to be served (log 1). -/
def State.setPort (s : State) (p : List HostAccess) : State := { s with port := p }

/-- The byte a host read returns (log 8). -/
def State.setReadData (s : State) (v : Byte) : State := { s with readData := some v }

/-- What the host reads from STATUS: bit 0 is ILL, bits 7:1 are hard-wired 0 (R22). -/
def statusView (s : State) : Byte := s.status &&& 0x01

/-! ### Failing, IllegalCommand, reset -/

/-- `fail` and `reject` (R10): RES <- 0x00 and the command ends. -/
def failWith (s : State) : Result := .next (s.setRes 0x00)

/-- `raise IllegalCommand` (R113), the block's only exception: STATUS.ILL <- 1, RES <- 0x00, nothing else. There is no trap
entry, no saved state and no return (R115, R116). -/
def raiseIllegalCommand (s : State) : State := (s.setStatus (s.status ||| 0x01)).setRes 0x00

/-- Reset (R123): every piece of state at its value of R25. What the host has still to do and has already read is the
host's and stays (logs 1, 8). -/
def applyReset (s : State) : State := { State.reset with port := s.port, readData := s.readData }

end Machine
end Sys2Proof
end

