-- ==== Sys2Proof/Machine/Operands.lean ====
section
/-! DEFINITION. The operand forms: the LEN, NB and CK checks of the buffer commands (R31, R32), the factory's clamps (R85),
and the packing and unpacking of sub-byte fields (R59 to R64). -/

namespace Sys2Proof
namespace Machine

/-! ### The declared length and the absent buffer -/

/-- Whether a command has no buffer, or one declared shorter than n bytes (R31, R32). -/
def bufferShort (n len : Nat) (nb : Bool) : Bool := nb || decide (len < n)

/-- The buffer check of ENC.x (R90): 7 bytes, or 8 when a checksum is asked for. -/
def encodeRejected (len : Nat) (ck nb : Bool) : Bool :=
  bufferShort Config.framePayloadBytes len nb || (ck && decide (len < Config.frameBytes))

/-! ### Factory inputs -/

/-- `clamp(v, lo, hi)` (R10). -/
def clamp (v lo hi : Byte) : Byte := if v < lo then lo else if v > hi then hi else v

/-- `bool(v)` (R10): any byte but 0 is true. -/
def boolOf (v : Byte) : Bool := v != 0

/-! ### Fields of a byte (R8) -/

/-- A flag at bit n of a byte. -/
def bitAt (b : Bool) (n : Nat) : Byte := (if b then 1 else 0 : Byte) <<< n

/-- PollAndCommand byte 4 (R60). -/
def packLight (lf : BitVec 2) (lt : BitVec 4) (lc : BitVec 2) : Byte :=
  (lf.setWidth 8 <<< 6) ||| (lt.setWidth 8 <<< 2) ||| lc.setWidth 8

/-- PollResponse byte 3 (R62). -/
def packHumidity (w s : Bool) (rh : BitVec 6) : Byte := bitAt w 7 ||| bitAt s 6 ||| (rh.setWidth 8 + 1)

/-- PollResponse byte 6 (R64). -/
def packAmbient (sy : Bool) (al : BitVec 6) : Byte := bitAt sy 7 ||| (al.setWidth 8 <<< 1)

/-- lf of PollAndCommand byte 4 (R60). -/
def lightFlash (b : Byte) : BitVec 2 := b.extractLsb' 6 2

/-- lt of PollAndCommand byte 4 (R60). -/
def lightOnTime (b : Byte) : BitVec 4 := b.extractLsb' 2 4

/-- lc of PollAndCommand byte 4 (R60). -/
def lightColour (b : Byte) : BitVec 2 := b.extractLsb' 0 2

/-- The stored humidity rh + 1 of PollResponse byte 3, masked to 6 bits (R62, R105). -/
def storedHumidity (b : Byte) : BitVec 6 := b.extractLsb' 0 6

/-- al of PollResponse byte 6; bit 0 is not looked at (R64, R105). -/
def ambientLight (b : Byte) : BitVec 6 := b.extractLsb' 1 6

end Machine
end Sys2Proof
end

