-- ==== Sys2Proof/Machine/Crc.lean ====
section
/-! DEFINITION. The CRC7 polynomial engine (40_crc7.md) and the CRC7 command (R75). -/

namespace Sys2Proof
namespace Machine

/-- One bit of the register update (R69): feedback from bit 6 and the data bit, shift left, divide. UNVERIFIED: the spec
marks R69 as general knowledge; unsafe (log 3). -/
def crcBit (p : Params) (c : Byte) (d : Bool) : Byte :=
  if xor (c.getLsbD 6) d then (c <<< 1) ^^^ p.crcPoly else c <<< 1

/-- crc7_update (R69): the byte d, most significant bit first; 7 bits are kept. -/
def crcUpdate (p : Params) (c d : Byte) : Byte :=
  ([7, 6, 5, 4, 3, 2, 1, 0].foldl (fun c i => crcBit p c (d.getLsbD i)) c) &&& 0x7F

/-- The raw register after the fold: seeded with B[0] (R70), updated with B[1] to B[6] (R71). -/
def crcRaw (p : Params) (b : Payload) : Byte := [b.b1, b.b2, b.b3, b.b4, b.b5, b.b6].foldl (crcUpdate p) b.b0

/-- The checksum of a payload (R74 past its length check): 0x00 for a zero first byte (R73), and CRC_ZERO_ALT for a zero
register (R72). -/
def checksum (p : Params) (b : Payload) : Byte :=
  if b.b0 = 0 then 0
  else if crcRaw p b = 0 then p.crcZeroAlt else crcRaw p b

/-- CRC7(LEN, NB) on the current BUF, of n bytes (R7, R74): no byte is read when the length check fails (R73). -/
def crc7 (p : Params) (len : Nat) (nb : Bool) (m : Memory) (n : Nat := Config.bufBytes) : Except Fault Byte :=
  if bufferShort Config.framePayloadBytes len nb then .ok 0
  else (readPayload m n).map (checksum p)

/-- CRC7 under the parameters p, on a BUF of n bytes (R7, R75). -/
def crc7Command (p : Params) (len : Nat) (nb : Bool) (s : State) (n : Nat := Config.bufBytes) : Result :=
  match crc7 p len nb s.buf n with
  | .error f => .fault f
  | .ok c => .next (s.setRes c)

/-- CRC7 (R75). -/
def execCrc7 (len : Nat) (nb : Bool) (s : State) : Result := crc7Command Config.params len nb s

end Machine
end Sys2Proof
end

