-- ==== Sys2Proof/Machine/Decoder.lean ====
section
/-! DEFINITION. The frame decoder, field unpacker and frame validator: DEC.A, DEC.P and DEC.R (43_decode.md R98 to R110). -/

namespace Sys2Proof
namespace Machine

/-! ### Reserved and packed fields, per variant: the candidate message, or none where a check fails -/

/-- DEC.A's field checks (R103). -/
def unpackAlert (p : Params) (b : Payload) : Option Alert :=
  if b.b3 ≠ Config.reservedByte then none
  else if (b.b4 ≠ Config.reservedByte ∨ b.b5 ≠ Config.reservedByte ∨ b.b6 ≠ Config.reservedByte)
      ∧ p.alertCheckAllRes = true then none
  else some { hc1 := b.b1, hc2 := b.b2 }

/-- DEC.P's field checks (R104). -/
def unpackPollCmd (p : Params) (b : Payload) : Option PollCmd :=
  if b.b3 = 0 ∨ b.b3 > 101 then none
  else if lightFlash b.b4 = 0 then none
  else if lightOnTime b.b4 = 0 then none
  else if b.b5 ≠ Config.reservedByte then none
  else if b.b6 ≠ Config.reservedByte ∧ p.pacCheckRes2 = true then none
  else some
    { hc1 := b.b1, hc2 := b.b2, rp := (b.b3 - 1).setWidth 7, lc := lightColour b.b4
      lt := lightOnTime b.b4, lf := lightFlash b.b4 }

/-- DEC.R's field checks (R105). Bit 0 of byte 6 is not checked (D19). -/
def unpackPollResp (b : Payload) : Option PollResp :=
  if storedHumidity b.b3 = 0 ∨ storedHumidity b.b3 > 51 then none
  else if b.b4 = 0 ∨ b.b4 > 200 then none
  else if b.b5 = 0 ∨ b.b5 > 200 then none
  else if ambientLight b.b6 = 0 ∨ ambientLight b.b6 = 0x3F then none
  else some
    { hc1 := b.b1, hc2 := b.b2, rh := storedHumidity b.b3 - 1, tp := b.b4 - 1, tr := b.b5 - 1
      al := ambientLight b.b6, s := b.b3.getLsbD 6, w := b.b3.getLsbD 7, sy := b.b6.getLsbD 7 }

/-! ### The state machine -/

/-- ValidateType, ValidateReservedOrPackedFields and ValidateChecksum (R98, R101, R102): the message to assign, or none. -/
def validateFrame {α : Type} (p : Params) (typeByte : Byte) (unpack : Payload → Option α) (f : Frame) : Option α :=
  if f.payload.b0 ≠ typeByte then none
  else
    match unpack f.payload with
    | none => none
    | some x => if f.check = checksum p f.payload then some x else none

/-- The state machine shared by DEC.x (R98): ForceInvalid (R99), ValidateLength (R100), the whole frame read at once (R33),
the checks, and the message assigned with RES <- 0x08 (R102), on a BUF of n bytes (R7). A failure keeps the forced-invalid
house code (R108). -/
def decodeFrame {α : Type} (p : Params) (typeByte : Byte) (unpack : Payload → Option α) (forceInvalid : State → State)
    (assign : State → α → State) (len : Nat) (nb : Bool) (s : State) (n : Nat := Config.bufBytes) : Result :=
  if bufferShort Config.frameBytes len nb then failWith (forceInvalid s)
  else
    match readFrame s.buf n with
    | .error f => .fault f
    | .ok f =>
      match validateFrame p typeByte unpack f with
      | none => failWith (forceInvalid s)
      | some x => .next ((assign (forceInvalid s) x).setRes 0x08)

/-- ForceInvalid of INST_A (R99). -/
def forceInvalidA (s : State) : State :=
  s.setInstA { s.instA with hc1 := Config.hcInvalid, hc2 := Config.hcInvalid }

/-- ForceInvalid of INST_P (R99). -/
def forceInvalidP (s : State) : State :=
  s.setInstP { s.instP with hc1 := Config.hcInvalid, hc2 := Config.hcInvalid }

/-- ForceInvalid of INST_R (R99). -/
def forceInvalidR (s : State) : State :=
  s.setInstR { s.instR with hc1 := Config.hcInvalid, hc2 := Config.hcInvalid }

/-- DEC.A under the parameters p (R103). -/
def decodeAlert (p : Params) (len : Nat) (nb : Bool) (s : State) (n : Nat := Config.bufBytes) : Result :=
  decodeFrame p Config.typeAlert (unpackAlert p) forceInvalidA State.setInstA len nb s n

/-- DEC.P under the parameters p (R104). -/
def decodePollCmd (p : Params) (len : Nat) (nb : Bool) (s : State) (n : Nat := Config.bufBytes) : Result :=
  decodeFrame p Config.typePollCmd (unpackPollCmd p) forceInvalidP State.setInstP len nb s n

/-- DEC.R under the parameters p (R105). -/
def decodePollResp (p : Params) (len : Nat) (nb : Bool) (s : State) (n : Nat := Config.bufBytes) : Result :=
  decodeFrame p Config.typePollResp unpackPollResp forceInvalidR State.setInstR len nb s n

/-- DEC.A (R103). -/
def execDecA (len : Nat) (nb : Bool) (s : State) : Result := decodeAlert Config.params len nb s

/-- DEC.P (R104). -/
def execDecP (len : Nat) (nb : Bool) (s : State) : Result := decodePollCmd Config.params len nb s

/-- DEC.R (R105). -/
def execDecR (len : Nat) (nb : Bool) (s : State) : Result := decodePollResp Config.params len nb s

end Machine
end Sys2Proof
end

