-- ==== Sys2Proof/Machine/Encoder.lean ====
section
/-! DEFINITION. The frame encoder and field packer: ENC.A, ENC.P and ENC.R (42_encode.md R90 to R97). -/

namespace Sys2Proof
namespace Machine

/-- The wire payload of an Alert (R58, R92). -/
def packAlert (x : Alert) : Payload :=
  { b0 := Config.typeAlert, b1 := x.hc1, b2 := x.hc2, b3 := Config.reservedByte, b4 := Config.reservedByte
    b5 := Config.reservedByte, b6 := Config.reservedByte }

/-- The wire payload of a PollAndCommand (R59 to R61, R93). -/
def packPollCmd (x : PollCmd) : Payload :=
  { b0 := Config.typePollCmd, b1 := x.hc1, b2 := x.hc2, b3 := x.rp.setWidth 8 + 1
    b4 := packLight x.lf x.lt x.lc, b5 := Config.reservedByte, b6 := Config.reservedByte }

/-- The wire payload of a PollResponse (R62 to R64, R94). -/
def packPollResp (x : PollResp) : Payload :=
  { b0 := Config.typePollResp, b1 := x.hc1, b2 := x.hc2, b3 := packHumidity x.w x.s x.rh
    b4 := x.tp + 1, b5 := x.tr + 1, b6 := packAmbient x.sy x.al }

/-- The write sequence shared by ENC.x (R91) on a BUF of n bytes (R7): the payload, then, when CK = 1, the checksum of the
bytes just written. -/
def writeFrame (p : Params) (b : Payload) (len : Nat) (ck : Bool) (m : Memory) (n : Nat := Config.bufBytes) :
    Except Fault Memory := do
  let m ← writePayload m b n
  if ck then
    let c ← crc7 p len false m n
    memWrite m 7 c n
  else
    return m

/-- ENC.x (R90, R91) on a BUF of n bytes (R7). A rejected command writes RES only (R96). -/
def encodeFrame (p : Params) (b : Payload) (len : Nat) (ck nb : Bool) (s : State) (n : Nat := Config.bufBytes) : Result :=
  if encodeRejected len ck nb then failWith s
  else
    match writeFrame p b len ck s.buf n with
    | .error f => .fault f
    | .ok m => .next ((s.setBuf m).setRes (if ck then 0x08 else 0x07))

/-- ENC.A (R92). -/
def execEncA (len : Nat) (ck nb : Bool) (s : State) : Result :=
  encodeFrame Config.params (packAlert s.instA) len ck nb s

/-- ENC.P (R93). -/
def execEncP (len : Nat) (ck nb : Bool) (s : State) : Result :=
  encodeFrame Config.params (packPollCmd s.instP) len ck nb s

/-- ENC.R (R94). -/
def execEncR (len : Nat) (ck nb : Bool) (s : State) : Result :=
  encodeFrame Config.params (packPollResp s.instR) len ck nb s

end Machine
end Sys2Proof
end

