-- ==== Sys2Proof/Machine/Flags.lean ====
section
/-! DEFINITION. The flags: VALID, derived from a house code and never stored (R17), and ILL, bit 0 of STATUS (R22). -/

namespace Sys2Proof
namespace Machine

/-- VALID of a house code (R17): neither byte is the sentinel. -/
def houseCodeValid (hc1 hc2 : Byte) : Bool := hc1 != Config.hcInvalid && hc2 != Config.hcInvalid

/-- VALID(INST_A) (R17). -/
def Alert.valid (x : Alert) : Bool := houseCodeValid x.hc1 x.hc2

/-- VALID(INST_P) (R17). -/
def PollCmd.valid (x : PollCmd) : Bool := houseCodeValid x.hc1 x.hc2

/-- VALID(INST_R) (R17). -/
def PollResp.valid (x : PollResp) : Bool := houseCodeValid x.hc1 x.hc2

/-- A Boolean as RES and OUT hold it: 0x01 or 0x00 (R21, R68). -/
def flagByte (b : Bool) : Byte := if b then 0x01 else 0x00

/-- STATUS.ILL (R22). -/
def State.ill (s : State) : Bool := s.status.getLsbD 0

end Machine
end Sys2Proof
end

