-- ==== Sys2Proof/Machine/Factory.lean ====
section
/-! DEFINITION. The factories MAKE.A, MAKE.P and MAKE.R (41_contract.md R84 to R89). -/

namespace Sys2Proof
namespace Machine

/-! ARG is a file of n bytes (R7); a factory needs the bytes R67 lays out for it. -/

section
variable {n : Nat} (arg : Vector Byte n)

/-- The Alert a factory builds from ARG (R84, R86). -/
def alertOfArg (h : 2 ≤ n := by decide) : Alert := { hc1 := arg[0], hc2 := arg[1] }

/-- The PollAndCommand a factory builds from ARG (R67, R85, R87): lc is masked, the rest clamped. -/
def pollCmdOfArg (h : 6 ≤ n := by decide) : PollCmd :=
  { hc1 := arg[0]
    hc2 := arg[1]
    rp := (clamp arg[2] 0 100).setWidth 7
    lc := (arg[3] &&& 0x3).setWidth 2
    lt := (clamp arg[4] 1 15).setWidth 4
    lf := (clamp arg[5] 1 3).setWidth 2 }

/-- The PollResponse a factory builds from ARG (R67, R85, R88). -/
def pollRespOfArg (h : 9 ≤ n := by decide) : PollResp :=
  { hc1 := arg[0]
    hc2 := arg[1]
    rh := (clamp arg[2] 0 50).setWidth 6
    tp := clamp arg[3] 0 199
    tr := clamp arg[4] 0 199
    al := (clamp arg[5] 1 62).setWidth 6
    s := boolOf arg[6]
    w := boolOf arg[7]
    sy := boolOf arg[8] }

end

/-- MAKE.A (R86). -/
def execMakeA (s : State) : Result :=
  let x := alertOfArg s.arg
  .next ((s.setInstA x).setRes (flagByte x.valid))

/-- MAKE.P (R87). -/
def execMakeP (s : State) : Result :=
  let x := pollCmdOfArg s.arg
  .next ((s.setInstP x).setRes (flagByte x.valid))

/-- MAKE.R (R88). -/
def execMakeR (s : State) : Result :=
  let x := pollRespOfArg s.arg
  .next ((s.setInstR x).setRes (flagByte x.valid))

end Machine
end Sys2Proof
end

