-- ==== Sys2Proof/Machine/Query.lean ====
section
/-! DEFINITION. The queries and accessors: VALID.x (R80), GETHC.x (R81), GETF.P (R82) and GETF.R (R83). -/

namespace Sys2Proof
namespace Machine

/-- The common part of VALID.x (R80): RES <- VALID. -/
def answerValid (v : Bool) (s : State) : Result := .next (s.setRes (flagByte v))

/-- The common part of GETHC.x and GETF.x (R68, R81 to R83): OUT[0..] <- vs, RES <- their number. -/
def answerBytes (vs : List Byte) (s : State) : Result := .next ((s.setOut vs).setRes (BitVec.ofNat 8 vs.length))

/-- VALID.A (R80). -/
def execValidA (s : State) : Result := answerValid s.instA.valid s

/-- VALID.P (R80). -/
def execValidP (s : State) : Result := answerValid s.instP.valid s

/-- VALID.R (R80). -/
def execValidR (s : State) : Result := answerValid s.instR.valid s

/-- GETHC.A (R81). -/
def execGethcA (s : State) : Result := answerBytes [s.instA.hc1, s.instA.hc2] s

/-- GETHC.P (R81). -/
def execGethcP (s : State) : Result := answerBytes [s.instP.hc1, s.instP.hc2] s

/-- GETHC.R (R81). -/
def execGethcR (s : State) : Result := answerBytes [s.instR.hc1, s.instR.hc2] s

/-- GETF.P (R82): values, not wire forms. -/
def execGetfP (s : State) : Result :=
  answerBytes [s.instP.rp.setWidth 8, s.instP.lc.setWidth 8, s.instP.lt.setWidth 8, s.instP.lf.setWidth 8] s

/-- GETF.R (R83): values, not wire forms; flags as 0x00 or 0x01. -/
def execGetfR (s : State) : Result :=
  answerBytes
    [s.instR.rh.setWidth 8, s.instR.tp, s.instR.tr, s.instR.al.setWidth 8, flagByte s.instR.s, flagByte s.instR.w,
      flagByte s.instR.sy] s

end Machine
end Sys2Proof
end

