-- ==== Sys2Proof/Machine/Dispatch.lean ====
section
/-! DEFINITION. The meaning of every command (R46), one arm each. The operand fields an arm drops are those R48 lets the
command ignore. -/

namespace Sys2Proof
namespace Machine

def exec (i : Instr) (s : State) : Host.Outcome State Fault Refusal :=
  match i with
  | .crc7 len _ nb => Sys2Proof.Machine.execCrc7 len nb s
  | .makeA _ _ _ => Sys2Proof.Machine.execMakeA s
  | .makeP _ _ _ => Sys2Proof.Machine.execMakeP s
  | .makeR _ _ _ => Sys2Proof.Machine.execMakeR s
  | .encA len ck nb => Sys2Proof.Machine.execEncA len ck nb s
  | .encP len ck nb => Sys2Proof.Machine.execEncP len ck nb s
  | .encR len ck nb => Sys2Proof.Machine.execEncR len ck nb s
  | .decA len _ nb => Sys2Proof.Machine.execDecA len nb s
  | .decP len _ nb => Sys2Proof.Machine.execDecP len nb s
  | .decR len _ nb => Sys2Proof.Machine.execDecR len nb s
  | .validA _ _ _ => Sys2Proof.Machine.execValidA s
  | .validP _ _ _ => Sys2Proof.Machine.execValidP s
  | .validR _ _ _ => Sys2Proof.Machine.execValidR s
  | .gethcA _ _ _ => Sys2Proof.Machine.execGethcA s
  | .gethcP _ _ _ => Sys2Proof.Machine.execGethcP s
  | .gethcR _ _ _ => Sys2Proof.Machine.execGethcR s
  | .getfP _ _ _ => Sys2Proof.Machine.execGetfP s
  | .getfR _ _ _ => Sys2Proof.Machine.execGetfR s

end Machine
end Sys2Proof
end

