-- ==== Sys2Proof/Machine/HostPort.lean ====
section
/-! DEFINITION. The host's one port: what each access does (R22, R23, R27, R53, R123, R125), the decoding of a command word
issued on CMD (R50), and the host's pseudo-operations (R53). -/

namespace Sys2Proof
namespace Machine

/-- A word written to CMD (R23): the command it decodes to (R50), or IllegalCommand, recognised before anything else
(R49, R113, R114). -/
def issue (w : CmdWord) (s : State) : Result :=
  match decode w with
  | .ok i => exec i s
  | .error _ => .next (raiseIllegalCommand s)

/-- The answer to a host read of one byte. -/
def answerRead (r : Except Fault Byte) (s : State) : Result :=
  match r with
  | .ok v => .next (s.setReadData v)
  | .error f => .fault f

/-- Byte i of ARG or OUT, a file of n bytes, as the host addresses it; nothing is past its last byte (R7, R19, R20; log 11). -/
def registerByte {n : Nat} (v : Vector Byte n) (i : Nat) : Except Fault Byte :=
  if h : i < n then .ok v[i] else .error (.noSuchLocation i)

/-- `rd BUF[i]` (R27, R53), BUF having n bytes (R7). -/
def hostReadBuf (i : Nat) (s : State) (n : Nat := Config.bufBytes) : Result := answerRead (memRead s.buf i n) s

/-- `wbuf` of one byte (R27, R53), BUF having n bytes (R7). -/
def hostWriteBuf (i : Nat) (v : Byte) (s : State) (n : Nat := Config.bufBytes) : Result :=
  match memWrite s.buf i v n with
  | .ok m => .next (s.setBuf m)
  | .error f => .fault f

/-- `warg` of one byte (R27, R53). -/
def hostWriteArg (i : Nat) (v : Byte) (s : State) : Result :=
  if h : i < Config.argBytes then .next (s.setArg ⟨i, h⟩ v) else .fault (.noSuchLocation i)

/-- One host access to a block that has been reset (R27). -/
def serve (a : HostAccess) (s : State) : Result :=
  match a with
  | .command w => issue w s
  | .writeBuf i v => hostWriteBuf i v s
  | .writeArg i v => hostWriteArg i v s
  | .writeStatus _ => .next s
  | .writeOut _ _ => .fault .resultWrite
  | .writeRes _ => .fault .resultWrite
  | .readBuf i => hostReadBuf i s
  | .readArg i => answerRead (registerByte s.arg i) s
  | .readOut i => answerRead (registerByte s.out i) s
  | .readRes => answerRead (.ok s.res) s
  | .readStatus => answerRead (.ok (statusView s)) s
  | .readCmd => .fault .commandPortRead
  | .reset => .next (applyReset s)
  | .resetDuring _ => .next (applyReset s)

/-- One host access to a block that has not been reset since power-up: only reset has a result (R123, R125, U2; log 9). -/
def serveBeforeReset (a : HostAccess) (s : State) : Result :=
  match a with
  | .reset => .next (applyReset s)
  | .resetDuring _ => .next (applyReset s)
  | .command _ => .fault .beforeReset
  | .writeBuf _ _ => .fault .beforeReset
  | .writeArg _ _ => .fault .beforeReset
  | .writeStatus _ => .fault .beforeReset
  | .writeOut _ _ => .fault .beforeReset
  | .writeRes _ => .fault .beforeReset
  | .readBuf _ => .fault .beforeReset
  | .readArg _ => .fault .beforeReset
  | .readOut _ => .fault .beforeReset
  | .readRes => .fault .beforeReset
  | .readStatus => .fault .beforeReset
  | .readCmd => .fault .beforeReset

/-- One host access (R27). -/
def hostAccess (a : HostAccess) (s : State) : Result :=
  if s.resetDone then serve a s else serveBeforeReset a s

/-- The next thing the block does: the oldest pending access (R40), or nothing: it idles (R12, R122). -/
def serveNext (s : State) : Result :=
  match s.port with
  | [] => .next s
  | a :: rest => hostAccess a (s.setPort rest)

/-- The state in which the host has just issued w on CMD, after the reset R125 asks for. -/
def withCommand (w : CmdWord) (s : State) : State := { s with port := .command w :: s.port, resetDone := true }

/-! ### The host's pseudo-operations (R53) -/

/-- `wbuf i, v0 v1 ...`. -/
def wbuf (i : Nat) : List Byte → List HostAccess
  | [] => []
  | v :: vs => .writeBuf i v :: wbuf (i + 1) vs

/-- `warg i, v0 v1 ...`. -/
def warg (i : Nat) : List Byte → List HostAccess
  | [] => []
  | v :: vs => .writeArg i v :: warg (i + 1) vs

/-- A received frame is placed with its first byte at BUF[0] (R35). -/
def placeFrame (f : List Byte) : List HostAccess := wbuf 0 f

/-- An encoded frame goes to the transport BUF[0] first, BUF[7] last (R35). -/
def drainFrame : List HostAccess := (List.range Config.frameBytes).map .readBuf

end Machine
end Sys2Proof
end

