-- ==== Sys2Proof/Machine/Step.lean ====
section
/-! DEFINITION. One step of the machine: the block serves the oldest pending host access, or idles (R12, R40, R122). -/

namespace Sys2Proof
namespace Machine

/-- One step. -/
def step (s : State) : Host.Outcome State Fault Refusal := serveNext s

/-- s with the command word of nbits bits w as the host's next access: CMD is where the block takes its next command
(R23), and a command may be issued once reset has been applied (R125; logs 1, 9). -/
def State.withFetchWord (s : State) (nbits w : Nat) : State := withCommand (BitVec.ofNat Config.cmdWidth (w % 2 ^ nbits)) s

end Machine
end Sys2Proof
end

