-- ==== Sys2Proof/Machine/Assembler.lean ====
section
/-! DEFINITION. The assembler's operands (30_encoding.md R51) and the pseudo-instructions (R52), over instructions rather
than text (log 16). -/

namespace Sys2Proof
namespace Machine

/-- An operand of an assembler line (R51). -/
inductive AsmOperand where
  /-- `len=<n>` -/
  | len (n : Nat)
  /-- `crc` -/
  | crc
  /-- `nobuf` -/
  | nobuf
deriving DecidableEq, Repr

/-- LEN after the operands; absent, LEN = 0 (R51). Of two, the later counts. DESIGN CHOICE (log 16). -/
def asmLen : List AsmOperand → Nat → Nat
  | [], n => n
  | .len k :: os, _ => asmLen os k
  | .crc :: os, n => asmLen os n
  | .nobuf :: os, n => asmLen os n

/-- A line `MNEMONIC operands` (R51): mk is the mnemonic's command; CK and NB are 1 where crc and nobuf stand. -/
def assemble (mk : Nat → Bool → Bool → Instr) (os : List AsmOperand) : Instr :=
  mk (asmLen os 0) (os.contains .crc) (os.contains .nobuf)

/-- A line as the host issues it: the instruction's word on CMD (R51). -/
def asmLine (mk : Nat → Bool → Bool → Instr) (os : List AsmOperand) : HostAccess := .command (encode (assemble mk os))

/-- The directive `.word w` (R51): the raw word, legal or not. -/
def asmWord (w : CmdWord) : HostAccess := .command w

/-- ENCF.A (R52). -/
def encfA : Instr := assemble .encA [.len 8, .crc]

/-- ENCF.P (R52). -/
def encfP : Instr := assemble .encP [.len 8, .crc]

/-- ENCF.R (R52). -/
def encfR : Instr := assemble .encR [.len 8, .crc]

/-- ENCP.A (R52). -/
def encpA : Instr := assemble .encA [.len 7]

/-- ENCP.P (R52). -/
def encpP : Instr := assemble .encP [.len 7]

/-- ENCP.R (R52). -/
def encpR : Instr := assemble .encR [.len 7]

/-- DECF.A (R52). -/
def decfA : Instr := assemble .decA [.len 8]

/-- DECF.P (R52). -/
def decfP : Instr := assemble .decP [.len 8]

/-- DECF.R (R52). -/
def decfR : Instr := assemble .decR [.len 8]

/-- CRCP (R52). -/
def crcp : Instr := assemble .crc7 [.len 7]

end Machine
end Sys2Proof
end

