-- ==== Sys2Proof/Safety.lean ====
section
/-! DEFINITION. What counts as a good state and a safe run: the field-range invariant (R16), the state invariant that every
step keeps, and what the host has to prepare before an access (R125). -/

namespace Sys2Proof
namespace Machine

/-- INST_P's fields are in their ranges (R14, R16). -/
abbrev PollCmd.Legal (x : PollCmd) : Prop := x.rp.toNat ≤ 100 ∧ 1 ≤ x.lt.toNat ∧ 1 ≤ x.lf.toNat

/-- INST_R's fields are in their ranges (R15, R16). -/
abbrev PollResp.Legal (x : PollResp) : Prop :=
  x.rh.toNat ≤ 50 ∧ x.tp.toNat ≤ 199 ∧ x.tr.toNat ≤ 199 ∧ 1 ≤ x.al.toNat ∧ x.al.toNat ≤ 62

/-- The field-range invariant (R16). An Alert has no field with a range. -/
abbrev State.FieldsLegal (s : State) : Prop := s.instP.Legal ∧ s.instR.Legal

/-- STATUS holds 0 in its reserved bits 7:1 (R22). -/
abbrev State.StatusReservedZero (s : State) : Prop := s.status &&& 0xFE = 0

/-- The state invariant: fields in range, BUF in canonical form, STATUS's reserved bits 0. -/
abbrev State.Inv (s : State) : Prop := s.FieldsLegal ∧ Memory.wf s.buf ∧ s.StatusReservedZero

/-- The first n bytes of BUF have been written (R125). -/
abbrev Specified (n : Nat) (m : Memory) : Prop := ∀ i, i < n → (Memory.read m i).isSome = true

/-- How many bytes of BUF a command reads that it has not written itself (R33). -/
def bytesRead : Instr → Nat
  | .crc7 len _ nb => if bufferShort Config.framePayloadBytes len nb then 0 else Config.framePayloadBytes
  | .decA len _ nb | .decP len _ nb | .decR len _ nb =>
    if bufferShort Config.frameBytes len nb then 0 else Config.frameBytes
  | .makeA _ _ _ | .makeP _ _ _ | .makeR _ _ _ | .encA _ _ _ | .encP _ _ _ | .encR _ _ _
  | .validA _ _ _ | .validP _ _ _ | .validR _ _ _ | .gethcA _ _ _ | .gethcP _ _ _ | .gethcR _ _ _
  | .getfP _ _ _ | .getfR _ _ _ => 0

/-- What the host has prepared before an access (R27, R125): the access is one the spec gives a result. -/
def AccessReady (s : State) : HostAccess → Prop
  | .command w => s.resetDone = true ∧ ∀ i, decode w = .ok i → Specified (bytesRead i) s.buf
  | .writeBuf i _ => s.resetDone = true ∧ i < Config.bufBytes
  | .writeArg i _ => s.resetDone = true ∧ i < Config.argBytes
  | .writeStatus _ => s.resetDone = true
  | .readBuf i => s.resetDone = true ∧ i < Config.bufBytes ∧ (Memory.read s.buf i).isSome = true
  | .readArg i => s.resetDone = true ∧ i < Config.argBytes
  | .readOut i => s.resetDone = true ∧ i < Config.outBytes
  | .readRes => s.resetDone = true
  | .readStatus => s.resetDone = true
  | .writeOut _ _ => False
  | .writeRes _ => False
  | .readCmd => False
  | .reset => True
  | .resetDuring _ => True

/-- A safe step: the machine goes on. -/
def StepSafe (s : State) : Prop := ∃ t, step s = .next t

end Machine
end Sys2Proof
end

