-- ==== Sys2Proof/Certificates/Slice0/Obligations.lean ====
section
/-! DEFINITION. The statements for the provers, in the spec's terms, and the few words they share. -/

open Sys2Proof Sys2Proof.Machine

namespace Sys2Proof
namespace Machine

/-! ### Words the statements share -/

/-- The first n bytes of BUF are B 0, B 1, … (the `B[i]` of R10). -/
def HasBytes (m : Memory) (n : Nat) (B : Nat → Byte) : Prop := ∀ i, i < n → Memory.read m i = some (B i)

/-- The payload whose byte i is B i (R55). -/
abbrev payloadOf (B : Nat → Byte) : Payload :=
  { b0 := B 0, b1 := B 1, b2 := B 2, b3 := B 3, b4 := B 4, b5 := B 5, b6 := B 6 }

/-- The checksum R74 gives the bytes B. -/
def checksumOf (B : Nat → Byte) : Byte := checksum Config.params (payloadOf B)

/-- What CRC7 answers for B[0..6] (R72 to R74): 0x00 for a zero first byte, 0x80 for a zero register, else the register. -/
def crc7Answer (B : Nat → Byte) : Byte :=
  if B 0 = 0x00 then 0x00
  else if crcRaw Config.params (payloadOf B) = 0x00 then 0x80
  else crcRaw Config.params (payloadOf B)

/-- Some byte of B[0..n-1] is unspecified, and the command is stuck on such a byte (R28). -/
def StuckBelow (r : Result) (s : State) (n : Nat) : Prop :=
  ∃ a, a < n ∧ Memory.read s.buf a = none ∧ r = .fault (.unspecifiedByte a)

/-- What R90 to R92 say of an ENC.x with the payload P: rejected with RES only; or accepted, with P in B[0..6], the checksum
in B[7] when CK = 1, every other byte and register as before. -/
def EncodesTo (r : Result) (s : State) (len : Nat) (ck nb : Bool) (P : Nat → Byte) : Prop :=
  ((nb = true ∨ len < 7 ∨ (ck = true ∧ len < 8)) → r = .next { s with res := 0x00 }) ∧
  (nb = false → 7 ≤ len → (ck = true → 8 ≤ len) →
    ∃ t, r = .next t ∧ t = { s with buf := t.buf, res := if ck then 0x08 else 0x07 } ∧
      (∀ a, a < 7 → Memory.read t.buf a = some (P a)) ∧
      Memory.read t.buf 7 = (if ck then some (checksumOf P) else Memory.read s.buf 7) ∧
      (∀ a, 8 ≤ a → Memory.read t.buf a = Memory.read s.buf a))

/-- The payload of INST_A (R92). -/
def alertBytes (x : Alert) (a : Nat) : Byte := [0x21, x.hc1, x.hc2, 0x01, 0x01, 0x01, 0x01].getD a 0

/-- The payload of INST_P (R93). -/
def pollCmdBytes (x : PollCmd) (a : Nat) : Byte :=
  [0x3F, x.hc1, x.hc2, BitVec.ofNat 8 (x.rp.toNat + 1),
    BitVec.ofNat 8 (x.lf.toNat * 64 + x.lt.toNat * 4 + x.lc.toNat), 0x01, 0x01].getD a 0

/-- The payload of INST_R (R94), each stored byte modulo 256 (R9). -/
def pollRespBytes (x : PollResp) (a : Nat) : Byte :=
  [0x2A, x.hc1, x.hc2,
    ((if x.w then 0x80 else 0x00) ||| (if x.s then 0x40 else 0x00) ||| BitVec.ofNat 8 (x.rh.toNat + 1) : Byte),
    BitVec.ofNat 8 (x.tp.toNat + 1), BitVec.ofNat 8 (x.tr.toNat + 1),
    ((if x.sy then 0x80 else 0x00) ||| BitVec.ofNat 8 (x.al.toNat * 2) : Byte)].getD a 0

/-- The checks of DEC.A past the length (R101 to R103). -/
def AlertFrameOk (B : Nat → Byte) : Prop :=
  B 0 = 0x21 ∧ B 3 = 0x01 ∧
  (Config.params.alertCheckAllRes = true → B 4 = 0x01 ∧ B 5 = 0x01 ∧ B 6 = 0x01) ∧ B 7 = checksumOf B

/-- The checks of DEC.P past the length (R101, R102, R104). -/
def PollCmdFrameOk (B : Nat → Byte) : Prop :=
  B 0 = 0x3F ∧ 1 ≤ (B 3).toNat ∧ (B 3).toNat ≤ 101 ∧ (B 4).toNat / 64 ≠ 0 ∧ (B 4).toNat / 4 % 16 ≠ 0 ∧
  B 5 = 0x01 ∧ (Config.params.pacCheckRes2 = true → B 6 = 0x01) ∧ B 7 = checksumOf B

/-- The checks of DEC.R past the length (R101, R102, R105). -/
def PollRespFrameOk (B : Nat → Byte) : Prop :=
  B 0 = 0x2A ∧ 1 ≤ (B 3).toNat % 64 ∧ (B 3).toNat % 64 ≤ 51 ∧ 1 ≤ (B 4).toNat ∧ (B 4).toNat ≤ 200 ∧
  1 ≤ (B 5).toNat ∧ (B 5).toNat ≤ 200 ∧ 1 ≤ (B 6).toNat / 2 % 64 ∧ (B 6).toNat / 2 % 64 ≤ 62 ∧ B 7 = checksumOf B

/-- Bit e.2 of byte e.1 flipped. -/
def flipBit (B : Nat → Byte) (e : Nat × Nat) : Nat → Byte := fun i => if i = e.1 then B i ^^^ (1#8 <<< e.2) else B i

/-- Every bit of the pattern flipped. -/
def flipBits (B : Nat → Byte) (pattern : List (Nat × Nat)) : Nat → Byte := pattern.foldl flipBit B

/-- A pattern of one, two or three different bits of the bytes lo..7 (R79). -/
def ErrorPattern (lo : Nat) (pattern : List (Nat × Nat)) : Prop :=
  pattern.Nodup ∧ 1 ≤ pattern.length ∧ pattern.length ≤ 3 ∧ ∀ e ∈ pattern, lo ≤ e.1 ∧ e.1 ≤ 7 ∧ e.2 < 8

/-- A byte as a polynomial over GF(2): bit i is the coefficient of x^i (R78). -/
noncomputable def bytePoly (v : Byte) : Polynomial (ZMod 2) :=
  ∑ i ∈ Finset.range 8, if v.getLsbD i then Polynomial.X ^ i else 0

/-- G(x) = x^7 + x^5 + x^4 + x^2 + x + 1 (R69). -/
noncomputable def generator : Polynomial (ZMod 2) :=
  Polynomial.X ^ 7 + Polynomial.X ^ 5 + Polynomial.X ^ 4 + Polynomial.X ^ 2 + Polynomial.X + 1

/-- M(x): B[1] to B[6] read most significant bit first, B[1][7] the coefficient of x^47 (R78). -/
noncomputable def messagePoly (b : Payload) : Polynomial (ZMod 2) :=
  bytePoly b.b1 * Polynomial.X ^ 40 + bytePoly b.b2 * Polynomial.X ^ 32 + bytePoly b.b3 * Polynomial.X ^ 24 +
    bytePoly b.b4 * Polynomial.X ^ 16 + bytePoly b.b5 * Polynomial.X ^ 8 + bytePoly b.b6

/-- The rows of the opcode map (R46): the operation code as the masked word, and the command. -/
def opcodeRows : List (CmdWord × (Nat → Bool → Bool → Instr)) :=
  [(0x01, .crc7), (0x10, .makeA), (0x11, .makeP), (0x12, .makeR), (0x20, .encA), (0x21, .encP), (0x22, .encR),
    (0x30, .decA), (0x31, .decP), (0x32, .decR), (0x40, .validA), (0x41, .validP), (0x42, .validR),
    (0x50, .gethcA), (0x51, .gethcP), (0x52, .gethcR), (0x61, .getfP), (0x62, .getfR)]

/-- The words R49 calls illegal: RSV not 0, or OP none of the 18 codes. -/
def IllegalWord (w : CmdWord) : Prop :=
  w.toNat / 2 ^ 18 ≠ 0 ∨
  w.toNat % 2 ^ 8 ∉ [0x01, 0x10, 0x11, 0x12, 0x20, 0x21, 0x22, 0x30, 0x31, 0x32, 0x40, 0x41, 0x42, 0x50, 0x51, 0x52,
    0x61, 0x62]

end Machine
end Sys2Proof

/-! ### Encoding -/

/-- Every well-formed instruction decodes from its own word, with LEN, CK and NB at every value (R45, R46, R50). -/
def Obligations.DecodeOfEncode : Prop := ∀ i : Instr, i.WellFormed → decode (encode i) = .ok i

/-- A legal word is the encoding of what it decodes to, and what it decodes to is well-formed (R45, R50). -/
def Obligations.EncodeOfDecode : Prop := ∀ (w : CmdWord) (i : Instr), decode w = .ok i → i.WellFormed ∧ encode i = w

/-- R50: a word matches a row when w & 0xFFFC00FF is the row's code; LEN, CK and NB are bits 15:8, 16 and 17; a word that
matches no row is illegal. -/
def Obligations.RowsDecodeByMask : Prop :=
  (∀ row ∈ opcodeRows, ∀ w : CmdWord, w &&& 0xFFFC00FF = row.1 →
    decode w = .ok (row.2 (w.toNat / 2 ^ 8 % 2 ^ 8) (w.getLsbD 16) (w.getLsbD 17))) ∧
  (∀ w : CmdWord, (∀ row ∈ opcodeRows, w &&& 0xFFFC00FF ≠ row.1) → ∃ e, decode w = .error e)

/-- Thirteen words of 95_test_vectors.md (T-ILL-1 to T-ILL-5, T-ILL-8 to T-ILL-13, GETHC.P of P1 and GETF.R of P2) decode to the
commands they stand for, or to none. The names of the two errors are the model's choice (log 12). -/
def Obligations.SampleWordsDecode : Prop :=
  decode 0x00000701 = .ok (.crc7 7 false false) ∧ decode 0x00010821 = .ok (.encP 8 true false) ∧
  decode 0x00000832 = .ok (.decR 8 false false) ∧ decode 0x00020830 = .ok (.decA 8 false true) ∧
  decode 0x00000012 = .ok (.makeR 0 false false) ∧ decode 0x0003FF40 = .ok (.validA 255 true true) ∧
  decode 0x00000051 = .ok (.gethcP 0 false false) ∧ decode 0x00000062 = .ok (.getfR 0 false false) ∧
  decode 0x00000000 = .error .unassignedOp ∧ decode 0x00000060 = .error .unassignedOp ∧
  decode 0x00000013 = .error .unassignedOp ∧ decode 0x00040701 = .error .reservedBits ∧
  decode 0x80000021 = .error .reservedBits

/-- R52: each pseudo-instruction is the one word of the table. -/
def Obligations.PseudoInstructionWords : Prop :=
  encode encfA = 0x00010820 ∧ encode encfP = 0x00010821 ∧ encode encfR = 0x00010822 ∧
  encode encpA = 0x00000720 ∧ encode encpP = 0x00000721 ∧ encode encpR = 0x00000722 ∧
  encode decfA = 0x00000830 ∧ encode decfP = 0x00000831 ∧ encode decfR = 0x00000832 ∧ encode crcp = 0x00000701

/-- R48: MAKE.x, VALID.x, GETHC.x and GETF.x ignore LEN, NB and CK; CRC7 and DEC.x ignore CK. -/
def Obligations.IgnoredFieldsHaveNoEffect : Prop :=
  (∀ mk ∈ [Instr.makeA, .makeP, .makeR, .validA, .validP, .validR, .gethcA, .gethcP, .gethcR, .getfP, .getfR],
    ∀ (len len' : Nat) (ck ck' nb nb' : Bool) (s : State), exec (mk len ck nb) s = exec (mk len' ck' nb') s) ∧
  (∀ mk ∈ [Instr.crc7, .decA, .decP, .decR],
    ∀ (len : Nat) (ck ck' nb : Bool) (s : State), exec (mk len ck nb) s = exec (mk len ck' nb) s)

/-! ### The step -/

/-- A step runs the command the issued word decodes to, in the state in which the word has left the port (R12, R23, R50), and
an illegal word raises IllegalCommand there (R49, R113). The port's list of issued accesses is the model's choice (log 1). -/
def Obligations.StepRunsDecodedCommand : Prop :=
  ∀ (s : State) (w : CmdWord) (rest : List HostAccess), s.resetDone = true → s.port = .command w :: rest →
    (∀ i : Instr, decode w = .ok i → i.WellFormed → step s = exec i { s with port := rest }) ∧
    (IllegalWord w → step s = .next { s with port := rest, status := s.status ||| 0x01, res := 0x00 })

/-- R49, R113: an illegal word raises IllegalCommand: ILL is set, RES is 0x00, nothing else changes; and no command sets or
clears STATUS. -/
def Obligations.IllegalWordSetsIll : Prop :=
  (∀ (s : State) (w : CmdWord), IllegalWord w →
    issue w s = .next { s with status := s.status ||| 0x01, res := 0x00 }) ∧
  (∀ (i : Instr) (s t : State), exec i s = .next t → t.status = s.status)

/-- The block idles when nothing is issued, and idling changes no state (R12, R122, R124). That idling is a step, and the list
of issued accesses, are the model's choices (logs 1, 17). -/
def Obligations.IdleChangesNothing : Prop := ∀ s : State, s.port = [] → step s = .next s

/-! ### CRC7 -/

/-- R78: the raw register is (B[0][6:0]·x^48 + M(x)·x^7) mod G(x) over GF(2). -/
def Obligations.CrcIsPolynomialRemainder : Prop :=
  ∀ b : Payload, bytePoly (crcRaw Config.params b) =
    (bytePoly (b.b0 &&& 0x7F) * Polynomial.X ^ 48 + messagePoly b * Polynomial.X ^ 7) %ₘ generator

/-- R72, R73: CRC7 writes RES only: 0x00 on a failed length check, no byte read; the checksum of B[0..6] where it passes,
0x00 for a zero first byte, 0x80 for a zero register; and it is stuck where it passes and a byte is unspecified (R28).
-/
def Obligations.Crc7Result : Prop :=
  ∀ (len : Nat) (ck nb : Bool) (s : State),
    ((nb = true ∨ len < 7) → exec (.crc7 len ck nb) s = .next { s with res := 0x00 }) ∧
    (nb = false → 7 ≤ len → ∀ B, HasBytes s.buf 7 B →
      exec (.crc7 len ck nb) s = .next { s with res := crc7Answer B }) ∧
    (nb = false → 7 ≤ len → ¬ Specified 7 s.buf → StuckBelow (exec (.crc7 len ck nb) s) s 7)

/-- R76: a successful CRC7 gives 0x01..0x7F or 0x80, never 0x00 or 0xFF; a failed one gives 0x00. -/
def Obligations.Crc7ResultRange : Prop :=
  ∀ (len : Nat) (ck nb : Bool) (s t : State), exec (.crc7 len ck nb) s = .next t →
    ((nb = true ∨ len < 7 ∨ Memory.read s.buf 0 = some 0x00) → t.res = 0x00) ∧
    (nb = false → 7 ≤ len → Memory.read s.buf 0 ≠ some 0x00 →
      ((1 ≤ t.res.toNat ∧ t.res.toNat ≤ 0x7F) ∨ t.res = 0x80) ∧ t.res ≠ 0x00 ∧ t.res ≠ 0xFF)

/-- R77: bit 7 of B[0] has no effect on the result; only the zero test sees it, which 0x80 passes and 0x00 does not. -/
def Obligations.SeedTopBitHasNoEffect : Prop :=
  (∀ b : Payload, crcRaw Config.params { b with b0 := b.b0 ^^^ 0x80 } = crcRaw Config.params b) ∧
  (∀ b : Payload, b.b0 ≠ 0x00 → b.b0 ≠ 0x80 →
    checksum Config.params { b with b0 := b.b0 ^^^ 0x80 } = checksum Config.params b) ∧
  (∀ b : Payload, checksum Config.params { b with b0 := 0x00 } = 0x00 ∧
    checksum Config.params { b with b0 := 0x80 } ≠ 0x00)

/-- R79, for patterns confined to bytes 1 to 7: one, two or three flipped bits make the recomputed checksum differ from the
received one, whatever the frame. -/
def Obligations.ChecksumDetectsThreeBitErrors : Prop :=
  ∀ (B : Nat → Byte) (pattern : List (Nat × Nat)), B 0 ≠ 0x00 → B 7 = checksumOf B → ErrorPattern 1 pattern →
    flipBits B pattern 7 ≠ checksumOf (flipBits B pattern)

/-- C5, S6, V5: a frame that DEC.x accepts, with one, two or three bits of its eight bytes flipped, is rejected by the same
DEC.x, and the instance is left invalid. -/
def Obligations.DecodeRejectsThreeBitErrors : Prop :=
  ∀ (s s' t : State) (B : Nat → Byte) (pattern : List (Nat × Nat)) (len : Nat) (ck nb : Bool),
    HasBytes s.buf 8 B → ErrorPattern 0 pattern → HasBytes s'.buf 8 (flipBits B pattern) →
    (exec (.decA len ck nb) s = .next t → t.res = 0x08 →
      ∃ t', exec (.decA len ck nb) s' = .next t' ∧ t'.res = 0x00 ∧ t'.instA.valid = false) ∧
    (exec (.decP len ck nb) s = .next t → t.res = 0x08 →
      ∃ t', exec (.decP len ck nb) s' = .next t' ∧ t'.res = 0x00 ∧ t'.instP.valid = false) ∧
    (exec (.decR len ck nb) s = .next t → t.res = 0x08 →
      ∃ t', exec (.decR len ck nb) s' = .next t' ∧ t'.res = 0x00 ∧ t'.instR.valid = false)

/-! ### Factories -/

/-- R84, R86: MAKE.A copies the house code from ARG and answers VALID; nothing else changes. -/
def Obligations.MakeAlertResult : Prop :=
  ∀ (len : Nat) (ck nb : Bool) (s : State),
    exec (.makeA len ck nb) s = .next { s with
      instAs := s.instAs.set 0 { hc1 := s.arg[0], hc2 := s.arg[1] }
      res := if s.arg[0] ≠ 0xFF ∧ s.arg[1] ≠ 0xFF then 0x01 else 0x00 }

/-- R87: MAKE.P clamps rp to 0..100, lt to 1..15 and lf to 1..3 and masks lc to 2 bits; nothing but INST_P and RES
changes. -/
def Obligations.MakePollCmdResult : Prop :=
  ∀ (len : Nat) (ck nb : Bool) (s : State),
    ∃ t, exec (.makeP len ck nb) s = .next t ∧ t = { s with instPs := t.instPs, res := t.res } ∧
      (∀ a, Memory.read t.buf a = Memory.read s.buf a) ∧
      t.instP.hc1 = s.arg[0] ∧ t.instP.hc2 = s.arg[1] ∧
      t.instP.rp.toNat = min (s.arg[2]).toNat 100 ∧ t.instP.lc.toNat = (s.arg[3]).toNat % 4 ∧
      t.instP.lt.toNat = max 1 (min (s.arg[4]).toNat 15) ∧ t.instP.lf.toNat = max 1 (min (s.arg[5]).toNat 3) ∧
      t.res = (if s.arg[0] ≠ 0xFF ∧ s.arg[1] ≠ 0xFF then 0x01 else 0x00)

/-- R88: MAKE.R clamps rh to 0..50, tp and tr to 0..199, al to 1..62 and takes each flag as true unless its byte is 0;
nothing but INST_R and RES changes. -/
def Obligations.MakePollRespResult : Prop :=
  ∀ (len : Nat) (ck nb : Bool) (s : State),
    ∃ t, exec (.makeR len ck nb) s = .next t ∧ t = { s with instRs := t.instRs, res := t.res } ∧
      (∀ a, Memory.read t.buf a = Memory.read s.buf a) ∧
      t.instR.hc1 = s.arg[0] ∧ t.instR.hc2 = s.arg[1] ∧
      t.instR.rh.toNat = min (s.arg[2]).toNat 50 ∧ t.instR.tp.toNat = min (s.arg[3]).toNat 199 ∧
      t.instR.tr.toNat = min (s.arg[4]).toNat 199 ∧ t.instR.al.toNat = max 1 (min (s.arg[5]).toNat 62) ∧
      (t.instR.s = true ↔ s.arg[6] ≠ 0) ∧ (t.instR.w = true ↔ s.arg[7] ≠ 0) ∧ (t.instR.sy = true ↔ s.arg[8] ≠ 0) ∧
      t.res = (if s.arg[0] ≠ 0xFF ∧ s.arg[1] ≠ 0xFF then 0x01 else 0x00)

/-! ### Queries and accessors -/

/-- R80: VALID.x answers 0x01 where neither house-code byte is 0xFF and 0x00 otherwise, and writes RES only. -/
def Obligations.ValidResult : Prop :=
  ∀ (len : Nat) (ck nb : Bool) (s : State),
    exec (.validA len ck nb) s =
      .next { s with res := if s.instA.hc1 ≠ 0xFF ∧ s.instA.hc2 ≠ 0xFF then 0x01 else 0x00 } ∧
    exec (.validP len ck nb) s =
      .next { s with res := if s.instP.hc1 ≠ 0xFF ∧ s.instP.hc2 ≠ 0xFF then 0x01 else 0x00 } ∧
    exec (.validR len ck nb) s =
      .next { s with res := if s.instR.hc1 ≠ 0xFF ∧ s.instR.hc2 ≠ 0xFF then 0x01 else 0x00 }

/-- R81: GETHC.x writes the house code to OUT[0..1] and 0x02 to RES; every other OUT byte, register and byte of BUF is
unchanged, and an invalid instance answers like any other. -/
def Obligations.GetHouseCodeResult : Prop :=
  ∀ (len : Nat) (ck nb : Bool) (s : State) (i : Instr) (hc1 hc2 : Byte),
    ((i = .gethcA len ck nb ∧ hc1 = s.instA.hc1 ∧ hc2 = s.instA.hc2) ∨
      (i = .gethcP len ck nb ∧ hc1 = s.instP.hc1 ∧ hc2 = s.instP.hc2) ∨
      (i = .gethcR len ck nb ∧ hc1 = s.instR.hc1 ∧ hc2 = s.instR.hc2)) →
    ∃ t, exec i s = .next t ∧ t = { s with out := t.out, res := 0x02 } ∧
      (∀ a, Memory.read t.buf a = Memory.read s.buf a) ∧
      t.out[0] = hc1 ∧ t.out[1] = hc2 ∧ ∀ k : Fin 9, 2 ≤ k.val → t.out[k] = s.out[k]

/-- R82: GETF.P writes rp, lc, lt and lf, unbiased, to OUT[0..3] and 0x04 to RES; nothing else changes. -/
def Obligations.GetPollCmdFieldsResult : Prop :=
  ∀ (len : Nat) (ck nb : Bool) (s : State),
    ∃ t, exec (.getfP len ck nb) s = .next t ∧ t = { s with out := t.out, res := 0x04 } ∧
      (∀ a, Memory.read t.buf a = Memory.read s.buf a) ∧
      (t.out[0]).toNat = s.instP.rp.toNat ∧ (t.out[1]).toNat = s.instP.lc.toNat ∧
      (t.out[2]).toNat = s.instP.lt.toNat ∧ (t.out[3]).toNat = s.instP.lf.toNat ∧
      ∀ k : Fin 9, 4 ≤ k.val → t.out[k] = s.out[k]

/-- R83: GETF.R writes rh, tp, tr, al and the flags s, w, sy as 0 or 1 to OUT[0..6] and 0x07 to RES; nothing else
changes. -/
def Obligations.GetPollRespFieldsResult : Prop :=
  ∀ (len : Nat) (ck nb : Bool) (s : State),
    ∃ t, exec (.getfR len ck nb) s = .next t ∧ t = { s with out := t.out, res := 0x07 } ∧
      (∀ a, Memory.read t.buf a = Memory.read s.buf a) ∧
      (t.out[0]).toNat = s.instR.rh.toNat ∧ t.out[1] = s.instR.tp ∧ t.out[2] = s.instR.tr ∧
      (t.out[3]).toNat = s.instR.al.toNat ∧ (t.out[4]).toNat = s.instR.s.toNat ∧
      (t.out[5]).toNat = s.instR.w.toNat ∧ (t.out[6]).toNat = s.instR.sy.toNat ∧
      ∀ k : Fin 9, 7 ≤ k.val → t.out[k] = s.out[k]

/-! ### The encoder -/

/-- R90, R91, R92: what ENC.A writes, where it is rejected, and that nothing else changes. -/
def Obligations.EncodeAlertResult : Prop :=
  ∀ (len : Nat) (ck nb : Bool) (s : State), EncodesTo (exec (.encA len ck nb) s) s len ck nb (alertBytes s.instA)

/-- R90, R91, R93: what ENC.P writes, where it is rejected, and that nothing else changes. -/
def Obligations.EncodePollCmdResult : Prop :=
  ∀ (len : Nat) (ck nb : Bool) (s : State), EncodesTo (exec (.encP len ck nb) s) s len ck nb (pollCmdBytes s.instP)

/-- R90, R91, R94: what ENC.R writes, where it is rejected, and that nothing else changes. -/
def Obligations.EncodePollRespResult : Prop :=
  ∀ (len : Nat) (ck nb : Bool) (s : State), EncodesTo (exec (.encR len ck nb) s) s len ck nb (pollRespBytes s.instR)

/-- R97: encode does not read BUF's prior content: two states that differ only in BUF answer the same RES and the same
written bytes, and differ afterwards only in BUF. -/
def Obligations.EncodeIgnoresPriorBuf : Prop :=
  ∀ mk ∈ [Instr.encA, .encP, .encR], ∀ (len : Nat) (ck nb : Bool) (s : State) (m : Memory),
    ∃ t u, exec (mk len ck nb) s = .next t ∧ exec (mk len ck nb) { s with buf := m } = .next u ∧
      u = { t with buf := u.buf } ∧
      (t.res ≠ 0x00 → ∀ a, a < t.res.toNat → ∃ v, Memory.read t.buf a = some v ∧ Memory.read u.buf a = some v)

/-- R66: whitening where it holds (type byte, biased bytes, reserved bytes, PollResponse byte 6, checksum) and where it does
not (the house-code bytes are copied; PollAndCommand byte 4 is 0xFF exactly for lf = 3, lt = 15, lc = 3). -/
def Obligations.WhiteningOfEncodedFrames : Prop :=
  ∀ (len : Nat) (ck : Bool) (s t : State) (i : Instr) (a : Nat) (v : Byte),
    s.FieldsLegal → exec i s = .next t → t.res ≠ 0x00 → Memory.read t.buf a = some v →
    (i = .encA len ck false →
      (a ∈ [0, 3, 4, 5, 6] ∨ (a = 7 ∧ ck = true) → v ≠ 0x00 ∧ v ≠ 0xFF) ∧
      (a = 1 → v = s.instA.hc1) ∧ (a = 2 → v = s.instA.hc2)) ∧
    (i = .encP len ck false →
      (a ∈ [0, 3, 5, 6] ∨ (a = 7 ∧ ck = true) → v ≠ 0x00 ∧ v ≠ 0xFF) ∧
      (a = 4 → (v = 0xFF ↔ s.instP.lf.toNat = 3 ∧ s.instP.lt.toNat = 15 ∧ s.instP.lc.toNat = 3)) ∧
      (a = 1 → v = s.instP.hc1) ∧ (a = 2 → v = s.instP.hc2)) ∧
    (i = .encR len ck false →
      (a ∈ [0, 3, 4, 5, 6] ∨ (a = 7 ∧ ck = true) → v ≠ 0x00 ∧ v ≠ 0xFF) ∧
      (a = 1 → v = s.instR.hc1) ∧ (a = 2 → v = s.instR.hc2))

/-! ### The decoder -/

/-- R103: DEC.A on a short or absent buffer, on an accepted frame and on a rejected frame; and where a byte is unspecified, it
is stuck (R28, R110). Only INST_A and RES change. -/
def Obligations.DecodeAlertResult : Prop :=
  ∀ (len : Nat) (ck nb : Bool) (s : State),
    ((nb = true ∨ len < 8) →
      exec (.decA len ck nb) s = .next { s with instAs := s.instAs.set 0 { hc1 := 0xFF, hc2 := 0xFF }, res := 0x00 }) ∧
    (nb = false → 8 ≤ len → ∀ B, HasBytes s.buf 8 B →
      (AlertFrameOk B →
        exec (.decA len ck nb) s = .next { s with instAs := s.instAs.set 0 { hc1 := B 1, hc2 := B 2 }, res := 0x08 }) ∧
      (¬ AlertFrameOk B →
        exec (.decA len ck nb) s = .next { s with instAs := s.instAs.set 0 { hc1 := 0xFF, hc2 := 0xFF }, res := 0x00 })) ∧
    (nb = false → 8 ≤ len → ¬ Specified 8 s.buf → StuckBelow (exec (.decA len ck nb) s) s 8)

/-- R104: DEC.P, likewise: rp is the stored byte less 1, and lf, lt and lc are bits 7:6, 5:2 and 1:0 of byte 4. -/
def Obligations.DecodePollCmdResult : Prop :=
  ∀ (len : Nat) (ck nb : Bool) (s : State),
    ((nb = true ∨ len < 8) →
      exec (.decP len ck nb) s =
        .next { s with instPs := s.instPs.set 0 { s.instP with hc1 := 0xFF, hc2 := 0xFF }, res := 0x00 }) ∧
    (nb = false → 8 ≤ len → ∀ B, HasBytes s.buf 8 B →
      (PollCmdFrameOk B →
        ∃ x : PollCmd, exec (.decP len ck nb) s = .next { s with instPs := s.instPs.set 0 x, res := 0x08 } ∧
          x.hc1 = B 1 ∧ x.hc2 = B 2 ∧ x.rp.toNat = (B 3).toNat - 1 ∧ x.lf.toNat = (B 4).toNat / 64 ∧
          x.lt.toNat = (B 4).toNat / 4 % 16 ∧ x.lc.toNat = (B 4).toNat % 4) ∧
      (¬ PollCmdFrameOk B →
        exec (.decP len ck nb) s =
          .next { s with instPs := s.instPs.set 0 { s.instP with hc1 := 0xFF, hc2 := 0xFF }, res := 0x00 })) ∧
    (nb = false → 8 ≤ len → ¬ Specified 8 s.buf → StuckBelow (exec (.decP len ck nb) s) s 8)

/-- R105: DEC.R, likewise: rh, tp and tr are stored less 1, al is bits 6:1 of byte 6, and the flags are w and s in bits 7
and 6 of byte 3 and sy in bit 7 of byte 6; bit 0 of byte 6 is not checked. -/
def Obligations.DecodePollRespResult : Prop :=
  ∀ (len : Nat) (ck nb : Bool) (s : State),
    ((nb = true ∨ len < 8) →
      exec (.decR len ck nb) s =
        .next { s with instRs := s.instRs.set 0 { s.instR with hc1 := 0xFF, hc2 := 0xFF }, res := 0x00 }) ∧
    (nb = false → 8 ≤ len → ∀ B, HasBytes s.buf 8 B →
      (PollRespFrameOk B →
        ∃ x : PollResp, exec (.decR len ck nb) s = .next { s with instRs := s.instRs.set 0 x, res := 0x08 } ∧
          x.hc1 = B 1 ∧ x.hc2 = B 2 ∧ x.rh.toNat = (B 3).toNat % 64 - 1 ∧ x.tp.toNat = (B 4).toNat - 1 ∧
          x.tr.toNat = (B 5).toNat - 1 ∧ x.al.toNat = (B 6).toNat / 2 % 64 ∧
          x.w.toNat = (B 3).toNat / 128 ∧ x.s.toNat = (B 3).toNat / 64 % 2 ∧ x.sy.toNat = (B 6).toNat / 128) ∧
      (¬ PollRespFrameOk B →
        exec (.decR len ck nb) s =
          .next { s with instRs := s.instRs.set 0 { s.instR with hc1 := 0xFF, hc2 := 0xFF }, res := 0x00 })) ∧
    (nb = false → 8 ≤ len → ¬ Specified 8 s.buf → StuckBelow (exec (.decR len ck nb) s) s 8)

/-- R108: after a failed DEC.x both house-code bytes of its instance are 0xFF, its other fields are kept, RES is 0x00, and
nothing else changes. -/
def Obligations.FailedDecodeState : Prop :=
  ∀ (len : Nat) (ck nb : Bool) (s t : State),
    (exec (.decA len ck nb) s = .next t → t.res ≠ 0x08 →
      t = { s with instAs := s.instAs.set 0 { hc1 := 0xFF, hc2 := 0xFF }, res := 0x00 }) ∧
    (exec (.decP len ck nb) s = .next t → t.res ≠ 0x08 →
      t = { s with instPs := s.instPs.set 0 { s.instP with hc1 := 0xFF, hc2 := 0xFF }, res := 0x00 }) ∧
    (exec (.decR len ck nb) s = .next t → t.res ≠ 0x08 →
      t = { s with instRs := s.instRs.set 0 { s.instR with hc1 := 0xFF, hc2 := 0xFF }, res := 0x00 })

/-- R102, R17: where a DEC.x answers 0x08, bytes 1 and 2 of the frame are the instance's house code, and the instance is
invalid exactly where one of them is 0xFF. -/
def Obligations.AcceptedFrameAssignsHouseCode : Prop :=
  ∀ (len : Nat) (ck nb : Bool) (s t : State) (B : Nat → Byte), HasBytes s.buf 8 B → t.res = 0x08 →
    (exec (.decA len ck nb) s = .next t →
      t.instA.hc1 = B 1 ∧ t.instA.hc2 = B 2 ∧ (t.instA.valid = false ↔ B 1 = 0xFF ∨ B 2 = 0xFF)) ∧
    (exec (.decP len ck nb) s = .next t →
      t.instP.hc1 = B 1 ∧ t.instP.hc2 = B 2 ∧ (t.instP.valid = false ↔ B 1 = 0xFF ∨ B 2 = 0xFF)) ∧
    (exec (.decR len ck nb) s = .next t →
      t.instR.hc1 = B 1 ∧ t.instR.hc2 = B 2 ∧ (t.instR.valid = false ↔ B 1 = 0xFF ∨ B 2 = 0xFF))

/-- R106: decode does not check the house code. A frame that passes every other check while byte 1 or 2 is 0xFF gives RES =
0x08, its house code is assigned from the wire, and the instance is then invalid. -/
def Obligations.WireHouseCodeOf0xFFIsAccepted : Prop :=
  ∀ (len : Nat) (ck : Bool) (s : State) (B : Nat → Byte), 8 ≤ len → HasBytes s.buf 8 B → (B 1 = 0xFF ∨ B 2 = 0xFF) →
    (AlertFrameOk B → ∃ t, exec (.decA len ck false) s = .next t ∧ t.res = 0x08 ∧
      t.instA.hc1 = B 1 ∧ t.instA.hc2 = B 2 ∧ t.instA.valid = false) ∧
    (PollCmdFrameOk B → ∃ t, exec (.decP len ck false) s = .next t ∧ t.res = 0x08 ∧
      t.instP.hc1 = B 1 ∧ t.instP.hc2 = B 2 ∧ t.instP.valid = false) ∧
    (PollRespFrameOk B → ∃ t, exec (.decR len ck false) s = .next t ∧ t.res = 0x08 ∧
      t.instR.hc1 = B 1 ∧ t.instR.hc2 = B 2 ∧ t.instR.valid = false)

/-- R110: every DEC.x gives 0x00 or 0x08 and never writes BUF; the only exception is one that passes ValidateLength while a
byte of B[0..7] is unspecified, which is stuck. -/
def Obligations.DecodeTotality : Prop :=
  ∀ mk ∈ [Instr.decA, .decP, .decR], ∀ (len : Nat) (ck nb : Bool) (s : State),
    ((nb = true ∨ len < 8 ∨ Specified 8 s.buf) →
      ∃ t, exec (mk len ck nb) s = .next t ∧ (t.res = 0x00 ∨ t.res = 0x08) ∧
        ∀ a, Memory.read t.buf a = Memory.read s.buf a) ∧
    (nb = false → 8 ≤ len → ¬ Specified 8 s.buf → StuckBelow (exec (mk len ck nb) s) s 8)

/-! ### Encode, then decode -/

/-- R109 for Alert, under every value of the parameters: `ENC.A len=8, crc` then `DEC.A len=8` gives RES = 0x08 and leaves
INST_A as it was. -/
def Obligations.AlertRoundTrip : Prop :=
  (∀ (p : Params) (s : State),
    ∃ t u, encodeFrame p (packAlert s.instA) 8 true false s = .next t ∧ decodeAlert p 8 false t = .next u ∧
      u.res = 0x08 ∧ u.instA = s.instA) ∧
  (∀ (s : State) (ck : Bool),
    ∃ t u, exec (.encA 8 true false) s = .next t ∧ exec (.decA 8 ck false) t = .next u ∧
      u.res = 0x08 ∧ u.instA = s.instA)

/-- R109 for PollAndCommand, under every value of the parameters, for every INST_P with its fields in range (R16). -/
def Obligations.PollCmdRoundTrip : Prop :=
  (∀ (p : Params) (s : State), s.instP.Legal →
    ∃ t u, encodeFrame p (packPollCmd s.instP) 8 true false s = .next t ∧ decodePollCmd p 8 false t = .next u ∧
      u.res = 0x08 ∧ u.instP = s.instP) ∧
  (∀ (s : State) (ck : Bool), s.instP.Legal →
    ∃ t u, exec (.encP 8 true false) s = .next t ∧ exec (.decP 8 ck false) t = .next u ∧
      u.res = 0x08 ∧ u.instP = s.instP)

/-- R109 for PollResponse, under every value of the parameters, for every INST_R with its fields in range (R16). -/
def Obligations.PollRespRoundTrip : Prop :=
  (∀ (p : Params) (s : State), s.instR.Legal →
    ∃ t u, encodeFrame p (packPollResp s.instR) 8 true false s = .next t ∧ decodePollResp p 8 false t = .next u ∧
      u.res = 0x08 ∧ u.instR = s.instR) ∧
  (∀ (s : State) (ck : Bool), s.instR.Legal →
    ∃ t u, exec (.encR 8 true false) s = .next t ∧ exec (.decR 8 ck false) t = .next u ∧
      u.res = 0x08 ∧ u.instR = s.instR)

/-! ### Whole-machine rules -/

/-- Every step keeps the fields in range (R16), BUF in canonical form (R29) and STATUS's reserved bits 0 (R22). -/
def Obligations.StepKeepsInvariant : Prop := ∀ s t : State, s.Inv → step s = .next t → t.Inv

/-- The reset state has the invariant (R16, R22, R25). -/
def Obligations.ResetHasInvariant : Prop := State.reset.Inv

/-- R26, "written by": no command writes ARG or STATUS; INST_x is written only by MAKE.x and DEC.x, OUT only by GETHC.x and
GETF.x, BUF only by ENC.x. -/
def Obligations.WritersOfRegisterFiles : Prop :=
  ∀ (i : Instr) (s t : State), exec i s = .next t →
    t.arg = s.arg ∧ t.status = s.status ∧ t.port = s.port ∧ t.readData = s.readData ∧ t.resetDone = s.resetDone ∧
    (i.opcode ∉ [0x10, 0x30] → t.instAs = s.instAs) ∧ (i.opcode ∉ [0x11, 0x31] → t.instPs = s.instPs) ∧
    (i.opcode ∉ [0x12, 0x32] → t.instRs = s.instRs) ∧
    (i.opcode ∉ [0x50, 0x51, 0x52, 0x61, 0x62] → t.out = s.out) ∧
    (i.opcode ∉ [0x20, 0x21, 0x22] → ∀ a, Memory.read t.buf a = Memory.read s.buf a)

/-- R21, R26, "read by": no command depends on RES or STATUS, and every command writes RES; only MAKE.x depends on ARG; only
the commands of variant x depend on INST_x; only CRC7, ENC.x and DEC.x have to do with BUF; only GETHC.x and GETF.x with
OUT. -/
def Obligations.ReadersOfRegisterFiles : Prop :=
  ∀ (i : Instr) (s t : State), exec i s = .next t →
    (∀ r x, exec i { s with res := r, status := x } = .next { t with status := x }) ∧
    (i.opcode ∉ [0x10, 0x11, 0x12] → ∀ g, exec i { s with arg := g } = .next { t with arg := g }) ∧
    (i.opcode ∉ [0x10, 0x20, 0x30, 0x40, 0x50] → ∀ x, exec i { s with instAs := x } = .next { t with instAs := x }) ∧
    (i.opcode ∉ [0x11, 0x21, 0x31, 0x41, 0x51, 0x61] →
      ∀ x, exec i { s with instPs := x } = .next { t with instPs := x }) ∧
    (i.opcode ∉ [0x12, 0x22, 0x32, 0x42, 0x52, 0x62] →
      ∀ x, exec i { s with instRs := x } = .next { t with instRs := x }) ∧
    (i.opcode ∉ [0x01, 0x20, 0x21, 0x22, 0x30, 0x31, 0x32] →
      ∀ m, exec i { s with buf := m } = .next { t with buf := m }) ∧
    (i.opcode ∉ [0x50, 0x51, 0x52, 0x61, 0x62] → ∀ o, exec i { s with out := o } = .next { t with out := o })

/-- R28, R33, R125: every command goes on where the bytes of BUF it reads have been written, and is stuck on an unspecified
one of them otherwise; a command that fails its length check reads none. -/
def Obligations.CommandsStopOnlyOnUnspecifiedBytes : Prop :=
  ∀ (i : Instr) (s : State),
    (Specified (bytesRead i) s.buf → ∃ t, exec i s = .next t) ∧
    (¬ Specified (bytesRead i) s.buf → StuckBelow (exec i s) s (bytesRead i))

/-- R125: a step whose access the host has prepared goes on. -/
def Obligations.PreparedAccessIsSafe : Prop :=
  ∀ (s : State) (a : HostAccess) (rest : List HostAccess), s.port = a :: rest → AccessReady s a → StepSafe s

/-- R37: every command is idempotent: issued twice in a row it leaves the state one issue left. -/
def Obligations.CommandsAreIdempotent : Prop :=
  ∀ (i : Instr) (s t : State), Memory.wf s.buf → exec i s = .next t → exec i t = .next t

/-- R112: only DEC.x changes state on failure: a CRC7 or ENC.x that answers 0x00 has changed nothing but RES. -/
def Obligations.FailureChangesOnlyRes : Prop :=
  ∀ mk ∈ [Instr.crc7, .encA, .encP, .encR], ∀ (len : Nat) (ck nb : Bool) (s t : State),
    exec (mk len ck nb) s = .next t → t.res = 0x00 → t = { s with res := 0x00 }

/-- R31: LEN is compared with 7 and 8 only: LEN 8 to 255 behave the same. -/
def Obligations.DeclaredLengthSaturates : Prop :=
  ∀ mk ∈ [Instr.crc7, .encA, .encP, .encR, .decA, .decP, .decR], ∀ (len : Nat) (ck nb : Bool) (s : State),
    8 ≤ len → exec (mk len ck nb) s = exec (mk 8 ck nb) s

/-- R32: NB = 1 fails the length check of every buffer command, whatever BUF holds, and no byte of BUF is touched. -/
def Obligations.AbsentBufferFails : Prop :=
  ∀ mk ∈ [Instr.crc7, .encA, .encP, .encR, .decA, .decP, .decR], ∀ (len : Nat) (ck : Bool) (s : State) (m : Memory),
    ∃ t, exec (mk len ck true) s = .next t ∧ t.res = 0x00 ∧ t.buf = s.buf ∧
      exec (mk len ck true) { s with buf := m } = .next { t with buf := m }

/-! ### Host accesses, STATUS and reset -/

/-- R22: ILL is sticky and only an illegal command sets it; only reset clears it; STATUS reads 0 in bits 7:1; a host write
to STATUS is ignored. How a read reaches the host (readData) is the model's choice (log 8). -/
def Obligations.StatusRegisterRules : Prop :=
  (∀ s t : State, step s = .next t → s.ill = true →
    t.ill = true ∨ ∃ rest, s.port = .reset :: rest ∨ ∃ w, s.port = .resetDuring w :: rest) ∧
  (∀ s t : State, step s = .next t → s.ill = false → t.ill = true →
    ∃ w rest, s.port = .command w :: rest ∧ IllegalWord w) ∧
  (∀ (s : State) (rest : List HostAccess), s.resetDone = true → s.port = .readStatus :: rest →
    ∃ v, step s = .next { s with port := rest, readData := some v } ∧
      v.getLsbD 0 = s.ill ∧ ∀ k, 1 ≤ k → v.getLsbD k = false) ∧
  (∀ (s : State) (v : Byte) (rest : List HostAccess), s.resetDone = true → s.port = .writeStatus v :: rest →
    step s = .next { s with port := rest })

/-- R27: the host writes any byte of BUF and ARG and reads any byte of BUF, ARG and OUT, and RES; each access changes
nothing but the byte it names. How a read reaches the host (readData) is the model's choice (log 8). -/
def Obligations.HostAccessesOfBufArgOutRes : Prop :=
  ∀ (s : State) (rest : List HostAccess), s.resetDone = true →
    (∀ i v, i < 8 → s.port = .writeBuf i v :: rest →
      ∃ t, step s = .next t ∧ t = { s with port := rest, buf := t.buf } ∧
        ∀ a, Memory.read t.buf a = if a = i then some v else Memory.read s.buf a) ∧
    (∀ (i : Fin 9) v, s.port = .writeArg i v :: rest →
      ∃ t, step s = .next t ∧ t = { s with port := rest, arg := t.arg } ∧
        ∀ k : Fin 9, t.arg[k] = if k = i then v else s.arg[k]) ∧
    (∀ i v, i < 8 → Memory.read s.buf i = some v → s.port = .readBuf i :: rest →
      step s = .next { s with port := rest, readData := some v }) ∧
    (∀ i : Fin 9, s.port = .readArg i :: rest → step s = .next { s with port := rest, readData := some s.arg[i] }) ∧
    (∀ i : Fin 9, s.port = .readOut i :: rest → step s = .next { s with port := rest, readData := some s.out[i] }) ∧
    (s.port = .readRes :: rest → step s = .next { s with port := rest, readData := some s.res })

/-- Where a host access stops: a read of an unspecified byte of BUF (D20, U1), an address past the last byte of BUF, ARG or
OUT, a read of CMD, and a write to OUT or RES. All but the first are the model's choice (logs 11, 19). -/
def Obligations.HostAccessesThatStop : Prop :=
  ∀ (s : State) (rest : List HostAccess), s.resetDone = true →
    (∀ i, i < 8 → Memory.read s.buf i = none → s.port = .readBuf i :: rest →
      step s = .fault (.unspecifiedByte i)) ∧
    (∀ i v, 8 ≤ i → (s.port = .readBuf i :: rest ∨ s.port = .writeBuf i v :: rest) →
      step s = .fault (.noSuchLocation i)) ∧
    (∀ i v, 9 ≤ i → (s.port = .readArg i :: rest ∨ s.port = .writeArg i v :: rest ∨ s.port = .readOut i :: rest) →
      step s = .fault (.noSuchLocation i)) ∧
    (s.port = .readCmd :: rest → step s = .fault .commandPortRead) ∧
    (∀ i v, (s.port = .writeOut i v :: rest ∨ s.port = .writeRes v :: rest) → step s = .fault .resultWrite)

/-- R40: a read of BUF sees the last write before it on the port, and no other byte is disturbed by that write. How a read
reaches the host is the model's choice (log 8). -/
def Obligations.ReadSeesLastWrite : Prop :=
  ∀ (s : State) (i j : Nat) (v : Byte) (rest : List HostAccess), s.resetDone = true → i < 8 → j < 8 →
    s.port = .writeBuf i v :: .readBuf j :: rest →
    ∃ t, step s = .next t ∧
      (j = i → ∃ u, step t = .next u ∧ u.readData = some v) ∧
      (∀ v', j ≠ i → Memory.read s.buf j = some v' → ∃ u, step t = .next u ∧ u.readData = some v')

/-- R25: the state after reset, and that its instances are what MAKE.x produces from a house code of 0xFF, 0xFF and all other
ARG bytes 0. -/
def Obligations.ResetValues : Prop :=
  State.reset.instA = { hc1 := 0xFF, hc2 := 0xFF } ∧
  State.reset.instP = { hc1 := 0xFF, hc2 := 0xFF, rp := 0, lc := 0, lt := 1, lf := 1 } ∧
  State.reset.instR =
    { hc1 := 0xFF, hc2 := 0xFF, rh := 0, tp := 0, tr := 0, al := 1, s := false, w := false, sy := false } ∧
  (∀ a, Memory.read State.reset.buf a = none) ∧
  (∀ k : Fin 9, State.reset.arg[k] = 0x00 ∧ State.reset.out[k] = 0x00) ∧
  State.reset.res = 0x00 ∧ State.reset.status = 0x00 ∧
  (∀ (s t : State) (len : Nat) (ck nb : Bool), s.arg[0] = 0xFF → s.arg[1] = 0xFF →
    (∀ k : Fin 9, 2 ≤ k.val → s.arg[k] = 0x00) →
    (exec (.makeA len ck nb) s = .next t → t.instA = State.reset.instA) ∧
    (exec (.makeP len ck nb) s = .next t → t.instP = State.reset.instP) ∧
    (exec (.makeR len ck nb) s = .next t → t.instR = State.reset.instR))

/-- R123: reset puts every piece of the spec's state to its value after reset, from any state, and a command that reset
arrives in the middle of has no effect. A reset in the middle of a command is an access of the model's (log 13). -/
def Obligations.ResetRestoresEverything : Prop :=
  ∀ (s : State) (rest : List HostAccess), (s.port = .reset :: rest ∨ ∃ w, s.port = .resetDuring w :: rest) →
    ∃ t, step s = .next t ∧ t.instAs = State.reset.instAs ∧ t.instPs = State.reset.instPs ∧
      t.instRs = State.reset.instRs ∧
      t.buf = State.reset.buf ∧ t.arg = State.reset.arg ∧ t.out = State.reset.out ∧ t.res = State.reset.res ∧
      t.status = State.reset.status ∧ t.resetDone = true

/-- R125, U2: before the first reset after power-up no access but reset has a result. That such an access faults is the
model's reading (log 9). -/
def Obligations.NothingRunsBeforeReset : Prop :=
  ∀ (s : State) (a : HostAccess) (rest : List HostAccess), s.resetDone = false → s.port = a :: rest →
    a ≠ .reset → (∀ w, a ≠ .resetDuring w) → step s = .fault .beforeReset
end

