-- ==== Sys2Proof/Laws/Encoding.lean ====
section
/-! SUPPORT. The fields of a command word, the decoder's cases, the word of an instruction bit by bit, and the mask of the
opcode rows (R45, R50). -/

namespace Sys2Proof

/-! ### The fields and the decoder on a word of CMD -/

theorem toNat_opField (w : CmdWord) : (opField w).toNat = w.toNat % 2 ^ 8 := by simp [opField]

theorem lenField_eq (w : CmdWord) : lenField w = w.toNat / 2 ^ 8 % 2 ^ 8 := by
  simp [lenField, Nat.shiftRight_eq_div_pow]

theorem toNat_rsvField (w : CmdWord) : (rsvField w).toNat = w.toNat / 2 ^ 18 := by
  have hw : w.toNat < 2 ^ 32 := w.isLt
  have : w.toNat / 2 ^ 18 < 2 ^ 14 := by omega
  rw [rsvField, BitVec.extractLsb'_toNat, Nat.shiftRight_eq_div_pow]
  exact Nat.mod_eq_of_lt this

theorem rsvField_eq_zero_iff (w : CmdWord) : rsvField w = 0 ↔ w.toNat / 2 ^ 18 = 0 := by
  rw [← toNat_rsvField, ← BitVec.toNat_inj]
  rfl

/-- The two cases of the decode procedure (R50). -/
theorem decode_of_rsv {w : CmdWord} (h : rsvField w ≠ 0) : decode w = .error .reservedBits := if_pos h

theorem decode_of_rsv_zero {w : CmdWord} (h : rsvField w = 0) :
    decode w =
      match commandOf (opField w) with
      | none => .error .unassignedOp
      | some mk => .ok (mk (lenField w) (ckField w) (nbField w)) :=
  if_neg (not_not.mpr h)

/-! ### The word of an instruction -/

/-- Bit i of a word built from its fields (R45). -/
theorem getLsbD_wordOf (op : BitVec 8) (len : Nat) (ck nb : Bool) {n i : Nat} (hi : i < n) :
    (wordOf op len ck nb n).getLsbD i =
      if i < 8 then op.getLsbD i
      else if i < 16 then (BitVec.ofNat 8 len).getLsbD (i - 8)
      else if i = 16 then ck
      else i = 17 && nb := by
  simp only [wordOf, BitVec.getLsbD_setWidth, hi, decide_true, Bool.true_and, BitVec.getLsbD_append]
  by_cases h8 : i < 8
  · simp [h8]
  · by_cases h16 : i < 16
    · have : i - 8 < 8 := by omega
      simp [h8, h16, this]
    · have h : ¬ i - 8 < 8 := by omega
      obtain rfl | rfl | h18 : i = 16 ∨ i = 17 ∨ 18 ≤ i := by omega
      · simp
      · simp
      · have h' : ¬ i - 8 - 8 < 1 := by omega
        have : i ≠ 16 := by omega
        have : i ≠ 17 := by omega
        have : 1 ≤ i - 8 - 8 - 1 := by omega
        simp [*]

section
variable (op : BitVec 8) (len : Nat) (ck nb : Bool)

@[simp] theorem opField_wordOf : opField (wordOf op len ck nb) = op := by
  ext i hi
  have : i < Config.cmdWidth := Nat.lt_of_lt_of_le hi (by decide)
  simp [opField, getLsbD_wordOf _ _ _ _ this, hi]

theorem lenField_wordOf (h : len ≤ 255) : lenField (wordOf op len ck nb) = len := by
  have : (wordOf op len ck nb).extractLsb' 8 8 = BitVec.ofNat 8 len := by
    ext i hi
    have hw : 8 + i < Config.cmdWidth := Nat.lt_of_lt_of_le (Nat.add_lt_add_left hi 8) (by decide)
    have h16 : 8 + i < 16 := by omega
    simp [BitVec.getElem_extractLsb', getLsbD_wordOf _ _ _ _ hw, h16, hi]
  rw [lenField, this, BitVec.toNat_ofNat]
  omega

@[simp] theorem ckField_wordOf : ckField (wordOf op len ck nb) = ck := by
  rw [ckField, getLsbD_wordOf _ _ _ _ (by decide)]
  rfl

@[simp] theorem nbField_wordOf : nbField (wordOf op len ck nb) = nb := by
  rw [nbField, getLsbD_wordOf _ _ _ _ (by decide)]
  simp

@[simp] theorem rsvField_wordOf : rsvField (wordOf op len ck nb) = 0 := by
  ext i hi
  have hw : 18 + i < Config.cmdWidth := by
    have : i < Config.cmdWidth - 18 := hi
    omega
  have h8 : ¬ 18 + i < 8 := by omega
  have h16 : ¬ 18 + i < 16 := by omega
  have h17 : 18 + i ≠ 16 := by omega
  have h18 : 18 + i ≠ 17 := by omega
  rw [rsvField, BitVec.getElem_extractLsb', getLsbD_wordOf _ _ _ _ hw]
  simp [h8, h16, h17, h18]

end

/-- A word is determined by its fields (R45). -/
theorem wordOf_fields (w : CmdWord) (h : rsvField w = 0) : wordOf (opField w) (lenField w) (ckField w) (nbField w) = w := by
  apply BitVec.eq_of_getLsbD_eq
  intro i hi
  rw [getLsbD_wordOf _ _ _ _ hi]
  simp only [opField, lenField, ckField, nbField]
  by_cases h8 : i < 8
  · simp [h8]
  · by_cases h16 : i < 16
    · have h : i - 8 < 8 := by omega
      have : 8 + (i - 8) = i := by omega
      simp only [h8, h16, h, this, if_false, if_true, BitVec.ofNat_toNat, BitVec.setWidth_eq,
        BitVec.getLsbD_extractLsb', decide_true, Bool.true_and]
    · obtain rfl | rfl | h18 : i = 16 ∨ i = 17 ∨ 18 ≤ i := by omega
      · simp
      · simp
      · have hr := congrArg (fun v => BitVec.getLsbD v (i - 18)) h
        have hb : i - 18 < Config.cmdWidth - 18 := by omega
        have : 18 + (i - 18) = i := by omega
        have h17 : i ≠ 16 := by omega
        have h18' : i ≠ 17 := by omega
        simp only [rsvField, BitVec.getLsbD_extractLsb', hb, decide_true, Bool.true_and, this] at hr
        simp [h8, h16, h17, h18', hr]

/-! ### The mask of the opcode rows (R50) -/

/-- The bits the mask keeps: OP and RSV. -/
theorem getLsbD_mask : ∀ i, i < 32 → (0xFFFC00FF#32).getLsbD i = (decide (i < 8) || decide (18 ≤ i)) := by decide

/-- A word matches the row of the code c when RSV is 0 and OP is c. -/
theorem and_mask_eq_iff (w : CmdWord) (c : BitVec 8) :
    w &&& 0xFFFC00FF#32 = c.setWidth 32 ↔ rsvField w = 0 ∧ opField w = c := by
  constructor
  · intro h
    have key : ∀ i, i < 32 → (w.getLsbD i && (decide (i < 8) || decide (18 ≤ i))) = c.getLsbD i := by
      intro i hi
      have := congrArg (fun v => BitVec.getLsbD v i) h
      simp only [BitVec.getLsbD_and, getLsbD_mask i hi, BitVec.getLsbD_setWidth] at this
      simpa [hi] using this
    constructor
    · ext i hi
      have hi' : i < 32 - 18 := hi
      have := key (18 + i) (by omega)
      rw [BitVec.getLsbD_of_ge c (18 + i) (by omega)] at this
      simpa [rsvField] using this
    · ext i hi
      have := key i (by omega)
      simpa [opField, hi] using this
  · rintro ⟨h1, rfl⟩
    apply BitVec.eq_of_getLsbD_eq
    intro i hi
    have hi' : i < 32 := hi
    rw [BitVec.getLsbD_and, getLsbD_mask i hi, BitVec.getLsbD_setWidth]
    by_cases h8 : i < 8
    · simp [h8, opField, hi']
    · by_cases h18 : 18 ≤ i
      · have hr := congrArg (fun v => BitVec.getLsbD v (i - 18)) h1
        have e : 18 + (i - 18) = i := by omega
        have hb : i - 18 < Config.cmdWidth - 18 := by
          show i - 18 < 14
          omega
        simp only [rsvField, BitVec.getLsbD_extractLsb', hb, decide_true, Bool.true_and, e] at hr
        simp [hr, h8, opField]
      · simp [h8, h18, opField]

/-- The word of an instruction has the pattern of its code's row. -/
theorem wordOf_and_mask (op : BitVec 8) (len : Nat) (ck nb : Bool) :
    wordOf op len ck nb &&& 0xFFFC00FF#32 = op.setWidth 32 :=
  (and_mask_eq_iff _ _).mpr ⟨rsvField_wordOf .., opField_wordOf ..⟩

end Sys2Proof
end

