-- ==== Sys2Proof/Laws/State.lean ====
section
/-! SUPPORT. One lemma per field per update of State, and what updates that meet one another do. -/

namespace Sys2Proof
namespace Machine

/-! ### The instance registers -/

@[simp] theorem instanceOf_setInstance {α : Type} {n : Nat} (file : Vector α n) (x : α) (h : 0 < n) :
    instanceOf (setInstance file x h) h = x := by
  simp [instanceOf, setInstance]

@[simp] theorem instanceOf_set {α : Type} {n : Nat} (file : Vector α n) (x : α) (h h' : 0 < n) :
    instanceOf (file.set 0 x h') h = x :=
  instanceOf_setInstance file x h

@[simp] theorem setInstance_setInstance {α : Type} {n : Nat} (file : Vector α n) (x y : α) (h : 0 < n) :
    setInstance (setInstance file x h) y h = setInstance file y h := by
  simp [setInstance]

@[simp] theorem setInstance_instanceOf {α : Type} {n : Nat} (file : Vector α n) (h : 0 < n) :
    setInstance file (instanceOf file h) h = file := by
  simp [setInstance, instanceOf]

/-! ### The updates -/

section
variable (s : State)

@[simp] theorem State.setInstA_instA (x : Alert) : (s.setInstA x).instA = x := instanceOf_setInstance _ _ _
@[simp] theorem State.setInstA_instAs (x : Alert) : (s.setInstA x).instAs = setInstance s.instAs x := rfl
@[simp] theorem State.setInstA_instP (x : Alert) : (s.setInstA x).instP = s.instP := rfl
@[simp] theorem State.setInstA_instPs (x : Alert) : (s.setInstA x).instPs = s.instPs := rfl
@[simp] theorem State.setInstA_instR (x : Alert) : (s.setInstA x).instR = s.instR := rfl
@[simp] theorem State.setInstA_instRs (x : Alert) : (s.setInstA x).instRs = s.instRs := rfl
@[simp] theorem State.setInstA_buf (x : Alert) : (s.setInstA x).buf = s.buf := rfl
@[simp] theorem State.setInstA_arg (x : Alert) : (s.setInstA x).arg = s.arg := rfl
@[simp] theorem State.setInstA_out (x : Alert) : (s.setInstA x).out = s.out := rfl
@[simp] theorem State.setInstA_res (x : Alert) : (s.setInstA x).res = s.res := rfl
@[simp] theorem State.setInstA_status (x : Alert) : (s.setInstA x).status = s.status := rfl
@[simp] theorem State.setInstA_port (x : Alert) : (s.setInstA x).port = s.port := rfl
@[simp] theorem State.setInstA_readData (x : Alert) : (s.setInstA x).readData = s.readData := rfl
@[simp] theorem State.setInstA_resetDone (x : Alert) : (s.setInstA x).resetDone = s.resetDone := rfl

@[simp] theorem State.setInstP_instA (x : PollCmd) : (s.setInstP x).instA = s.instA := rfl
@[simp] theorem State.setInstP_instAs (x : PollCmd) : (s.setInstP x).instAs = s.instAs := rfl
@[simp] theorem State.setInstP_instP (x : PollCmd) : (s.setInstP x).instP = x := instanceOf_setInstance _ _ _
@[simp] theorem State.setInstP_instPs (x : PollCmd) : (s.setInstP x).instPs = setInstance s.instPs x := rfl
@[simp] theorem State.setInstP_instR (x : PollCmd) : (s.setInstP x).instR = s.instR := rfl
@[simp] theorem State.setInstP_instRs (x : PollCmd) : (s.setInstP x).instRs = s.instRs := rfl
@[simp] theorem State.setInstP_buf (x : PollCmd) : (s.setInstP x).buf = s.buf := rfl
@[simp] theorem State.setInstP_arg (x : PollCmd) : (s.setInstP x).arg = s.arg := rfl
@[simp] theorem State.setInstP_out (x : PollCmd) : (s.setInstP x).out = s.out := rfl
@[simp] theorem State.setInstP_res (x : PollCmd) : (s.setInstP x).res = s.res := rfl
@[simp] theorem State.setInstP_status (x : PollCmd) : (s.setInstP x).status = s.status := rfl
@[simp] theorem State.setInstP_port (x : PollCmd) : (s.setInstP x).port = s.port := rfl
@[simp] theorem State.setInstP_readData (x : PollCmd) : (s.setInstP x).readData = s.readData := rfl
@[simp] theorem State.setInstP_resetDone (x : PollCmd) : (s.setInstP x).resetDone = s.resetDone := rfl

@[simp] theorem State.setInstR_instA (x : PollResp) : (s.setInstR x).instA = s.instA := rfl
@[simp] theorem State.setInstR_instAs (x : PollResp) : (s.setInstR x).instAs = s.instAs := rfl
@[simp] theorem State.setInstR_instP (x : PollResp) : (s.setInstR x).instP = s.instP := rfl
@[simp] theorem State.setInstR_instPs (x : PollResp) : (s.setInstR x).instPs = s.instPs := rfl
@[simp] theorem State.setInstR_instR (x : PollResp) : (s.setInstR x).instR = x := instanceOf_setInstance _ _ _
@[simp] theorem State.setInstR_instRs (x : PollResp) : (s.setInstR x).instRs = setInstance s.instRs x := rfl
@[simp] theorem State.setInstR_buf (x : PollResp) : (s.setInstR x).buf = s.buf := rfl
@[simp] theorem State.setInstR_arg (x : PollResp) : (s.setInstR x).arg = s.arg := rfl
@[simp] theorem State.setInstR_out (x : PollResp) : (s.setInstR x).out = s.out := rfl
@[simp] theorem State.setInstR_res (x : PollResp) : (s.setInstR x).res = s.res := rfl
@[simp] theorem State.setInstR_status (x : PollResp) : (s.setInstR x).status = s.status := rfl
@[simp] theorem State.setInstR_port (x : PollResp) : (s.setInstR x).port = s.port := rfl
@[simp] theorem State.setInstR_readData (x : PollResp) : (s.setInstR x).readData = s.readData := rfl
@[simp] theorem State.setInstR_resetDone (x : PollResp) : (s.setInstR x).resetDone = s.resetDone := rfl

@[simp] theorem State.setBuf_instA (m : Memory) : (s.setBuf m).instA = s.instA := rfl
@[simp] theorem State.setBuf_instAs (m : Memory) : (s.setBuf m).instAs = s.instAs := rfl
@[simp] theorem State.setBuf_instP (m : Memory) : (s.setBuf m).instP = s.instP := rfl
@[simp] theorem State.setBuf_instPs (m : Memory) : (s.setBuf m).instPs = s.instPs := rfl
@[simp] theorem State.setBuf_instR (m : Memory) : (s.setBuf m).instR = s.instR := rfl
@[simp] theorem State.setBuf_instRs (m : Memory) : (s.setBuf m).instRs = s.instRs := rfl
@[simp] theorem State.setBuf_buf (m : Memory) : (s.setBuf m).buf = m := rfl
@[simp] theorem State.setBuf_arg (m : Memory) : (s.setBuf m).arg = s.arg := rfl
@[simp] theorem State.setBuf_out (m : Memory) : (s.setBuf m).out = s.out := rfl
@[simp] theorem State.setBuf_res (m : Memory) : (s.setBuf m).res = s.res := rfl
@[simp] theorem State.setBuf_status (m : Memory) : (s.setBuf m).status = s.status := rfl
@[simp] theorem State.setBuf_port (m : Memory) : (s.setBuf m).port = s.port := rfl
@[simp] theorem State.setBuf_readData (m : Memory) : (s.setBuf m).readData = s.readData := rfl
@[simp] theorem State.setBuf_resetDone (m : Memory) : (s.setBuf m).resetDone = s.resetDone := rfl

@[simp] theorem State.setArg_instA (i : Fin Config.argBytes) (v : Byte) : (s.setArg i v).instA = s.instA := rfl
@[simp] theorem State.setArg_instAs (i : Fin Config.argBytes) (v : Byte) : (s.setArg i v).instAs = s.instAs := rfl
@[simp] theorem State.setArg_instP (i : Fin Config.argBytes) (v : Byte) : (s.setArg i v).instP = s.instP := rfl
@[simp] theorem State.setArg_instPs (i : Fin Config.argBytes) (v : Byte) : (s.setArg i v).instPs = s.instPs := rfl
@[simp] theorem State.setArg_instR (i : Fin Config.argBytes) (v : Byte) : (s.setArg i v).instR = s.instR := rfl
@[simp] theorem State.setArg_instRs (i : Fin Config.argBytes) (v : Byte) : (s.setArg i v).instRs = s.instRs := rfl
@[simp] theorem State.setArg_buf (i : Fin Config.argBytes) (v : Byte) : (s.setArg i v).buf = s.buf := rfl
@[simp] theorem State.setArg_arg (i : Fin Config.argBytes) (v : Byte) : (s.setArg i v).arg = s.arg.set i v := rfl
@[simp] theorem State.setArg_out (i : Fin Config.argBytes) (v : Byte) : (s.setArg i v).out = s.out := rfl
@[simp] theorem State.setArg_res (i : Fin Config.argBytes) (v : Byte) : (s.setArg i v).res = s.res := rfl
@[simp] theorem State.setArg_status (i : Fin Config.argBytes) (v : Byte) : (s.setArg i v).status = s.status := rfl
@[simp] theorem State.setArg_port (i : Fin Config.argBytes) (v : Byte) : (s.setArg i v).port = s.port := rfl
@[simp] theorem State.setArg_readData (i : Fin Config.argBytes) (v : Byte) : (s.setArg i v).readData = s.readData := rfl
@[simp] theorem State.setArg_resetDone (i : Fin Config.argBytes) (v : Byte) : (s.setArg i v).resetDone = s.resetDone := rfl

@[simp] theorem State.setOut_instA (vs : List Byte) : (s.setOut vs).instA = s.instA := rfl
@[simp] theorem State.setOut_instAs (vs : List Byte) : (s.setOut vs).instAs = s.instAs := rfl
@[simp] theorem State.setOut_instP (vs : List Byte) : (s.setOut vs).instP = s.instP := rfl
@[simp] theorem State.setOut_instPs (vs : List Byte) : (s.setOut vs).instPs = s.instPs := rfl
@[simp] theorem State.setOut_instR (vs : List Byte) : (s.setOut vs).instR = s.instR := rfl
@[simp] theorem State.setOut_instRs (vs : List Byte) : (s.setOut vs).instRs = s.instRs := rfl
@[simp] theorem State.setOut_buf (vs : List Byte) : (s.setOut vs).buf = s.buf := rfl
@[simp] theorem State.setOut_arg (vs : List Byte) : (s.setOut vs).arg = s.arg := rfl
@[simp] theorem State.setOut_out (vs : List Byte) : (s.setOut vs).out = writeBytes s.out vs := rfl
@[simp] theorem State.setOut_res (vs : List Byte) : (s.setOut vs).res = s.res := rfl
@[simp] theorem State.setOut_status (vs : List Byte) : (s.setOut vs).status = s.status := rfl
@[simp] theorem State.setOut_port (vs : List Byte) : (s.setOut vs).port = s.port := rfl
@[simp] theorem State.setOut_readData (vs : List Byte) : (s.setOut vs).readData = s.readData := rfl
@[simp] theorem State.setOut_resetDone (vs : List Byte) : (s.setOut vs).resetDone = s.resetDone := rfl

@[simp] theorem State.setRes_instA (v : Byte) : (s.setRes v).instA = s.instA := rfl
@[simp] theorem State.setRes_instAs (v : Byte) : (s.setRes v).instAs = s.instAs := rfl
@[simp] theorem State.setRes_instP (v : Byte) : (s.setRes v).instP = s.instP := rfl
@[simp] theorem State.setRes_instPs (v : Byte) : (s.setRes v).instPs = s.instPs := rfl
@[simp] theorem State.setRes_instR (v : Byte) : (s.setRes v).instR = s.instR := rfl
@[simp] theorem State.setRes_instRs (v : Byte) : (s.setRes v).instRs = s.instRs := rfl
@[simp] theorem State.setRes_buf (v : Byte) : (s.setRes v).buf = s.buf := rfl
@[simp] theorem State.setRes_arg (v : Byte) : (s.setRes v).arg = s.arg := rfl
@[simp] theorem State.setRes_out (v : Byte) : (s.setRes v).out = s.out := rfl
@[simp] theorem State.setRes_res (v : Byte) : (s.setRes v).res = v := rfl
@[simp] theorem State.setRes_status (v : Byte) : (s.setRes v).status = s.status := rfl
@[simp] theorem State.setRes_port (v : Byte) : (s.setRes v).port = s.port := rfl
@[simp] theorem State.setRes_readData (v : Byte) : (s.setRes v).readData = s.readData := rfl
@[simp] theorem State.setRes_resetDone (v : Byte) : (s.setRes v).resetDone = s.resetDone := rfl

@[simp] theorem State.setStatus_instA (v : Byte) : (s.setStatus v).instA = s.instA := rfl
@[simp] theorem State.setStatus_instAs (v : Byte) : (s.setStatus v).instAs = s.instAs := rfl
@[simp] theorem State.setStatus_instP (v : Byte) : (s.setStatus v).instP = s.instP := rfl
@[simp] theorem State.setStatus_instPs (v : Byte) : (s.setStatus v).instPs = s.instPs := rfl
@[simp] theorem State.setStatus_instR (v : Byte) : (s.setStatus v).instR = s.instR := rfl
@[simp] theorem State.setStatus_instRs (v : Byte) : (s.setStatus v).instRs = s.instRs := rfl
@[simp] theorem State.setStatus_buf (v : Byte) : (s.setStatus v).buf = s.buf := rfl
@[simp] theorem State.setStatus_arg (v : Byte) : (s.setStatus v).arg = s.arg := rfl
@[simp] theorem State.setStatus_out (v : Byte) : (s.setStatus v).out = s.out := rfl
@[simp] theorem State.setStatus_res (v : Byte) : (s.setStatus v).res = s.res := rfl
@[simp] theorem State.setStatus_status (v : Byte) : (s.setStatus v).status = v := rfl
@[simp] theorem State.setStatus_port (v : Byte) : (s.setStatus v).port = s.port := rfl
@[simp] theorem State.setStatus_readData (v : Byte) : (s.setStatus v).readData = s.readData := rfl
@[simp] theorem State.setStatus_resetDone (v : Byte) : (s.setStatus v).resetDone = s.resetDone := rfl

@[simp] theorem State.setPort_instA (p : List HostAccess) : (s.setPort p).instA = s.instA := rfl
@[simp] theorem State.setPort_instAs (p : List HostAccess) : (s.setPort p).instAs = s.instAs := rfl
@[simp] theorem State.setPort_instP (p : List HostAccess) : (s.setPort p).instP = s.instP := rfl
@[simp] theorem State.setPort_instPs (p : List HostAccess) : (s.setPort p).instPs = s.instPs := rfl
@[simp] theorem State.setPort_instR (p : List HostAccess) : (s.setPort p).instR = s.instR := rfl
@[simp] theorem State.setPort_instRs (p : List HostAccess) : (s.setPort p).instRs = s.instRs := rfl
@[simp] theorem State.setPort_buf (p : List HostAccess) : (s.setPort p).buf = s.buf := rfl
@[simp] theorem State.setPort_arg (p : List HostAccess) : (s.setPort p).arg = s.arg := rfl
@[simp] theorem State.setPort_out (p : List HostAccess) : (s.setPort p).out = s.out := rfl
@[simp] theorem State.setPort_res (p : List HostAccess) : (s.setPort p).res = s.res := rfl
@[simp] theorem State.setPort_status (p : List HostAccess) : (s.setPort p).status = s.status := rfl
@[simp] theorem State.setPort_port (p : List HostAccess) : (s.setPort p).port = p := rfl
@[simp] theorem State.setPort_readData (p : List HostAccess) : (s.setPort p).readData = s.readData := rfl
@[simp] theorem State.setPort_resetDone (p : List HostAccess) : (s.setPort p).resetDone = s.resetDone := rfl

@[simp] theorem State.setReadData_instA (v : Byte) : (s.setReadData v).instA = s.instA := rfl
@[simp] theorem State.setReadData_instAs (v : Byte) : (s.setReadData v).instAs = s.instAs := rfl
@[simp] theorem State.setReadData_instP (v : Byte) : (s.setReadData v).instP = s.instP := rfl
@[simp] theorem State.setReadData_instPs (v : Byte) : (s.setReadData v).instPs = s.instPs := rfl
@[simp] theorem State.setReadData_instR (v : Byte) : (s.setReadData v).instR = s.instR := rfl
@[simp] theorem State.setReadData_instRs (v : Byte) : (s.setReadData v).instRs = s.instRs := rfl
@[simp] theorem State.setReadData_buf (v : Byte) : (s.setReadData v).buf = s.buf := rfl
@[simp] theorem State.setReadData_arg (v : Byte) : (s.setReadData v).arg = s.arg := rfl
@[simp] theorem State.setReadData_out (v : Byte) : (s.setReadData v).out = s.out := rfl
@[simp] theorem State.setReadData_res (v : Byte) : (s.setReadData v).res = s.res := rfl
@[simp] theorem State.setReadData_status (v : Byte) : (s.setReadData v).status = s.status := rfl
@[simp] theorem State.setReadData_port (v : Byte) : (s.setReadData v).port = s.port := rfl
@[simp] theorem State.setReadData_readData (v : Byte) : (s.setReadData v).readData = some v := rfl
@[simp] theorem State.setReadData_resetDone (v : Byte) : (s.setReadData v).resetDone = s.resetDone := rfl

@[simp] theorem forceInvalidA_instA : (forceInvalidA s).instA = { s.instA with hc1 := Config.hcInvalid, hc2 := Config.hcInvalid } := State.setInstA_instA _ _
@[simp] theorem forceInvalidA_instAs :
    (forceInvalidA s).instAs =
      setInstance s.instAs { s.instA with hc1 := Config.hcInvalid, hc2 := Config.hcInvalid } := rfl
@[simp] theorem forceInvalidA_instP : (forceInvalidA s).instP = s.instP := rfl
@[simp] theorem forceInvalidA_instPs : (forceInvalidA s).instPs = s.instPs := rfl
@[simp] theorem forceInvalidA_instR : (forceInvalidA s).instR = s.instR := rfl
@[simp] theorem forceInvalidA_instRs : (forceInvalidA s).instRs = s.instRs := rfl
@[simp] theorem forceInvalidA_buf : (forceInvalidA s).buf = s.buf := rfl
@[simp] theorem forceInvalidA_arg : (forceInvalidA s).arg = s.arg := rfl
@[simp] theorem forceInvalidA_out : (forceInvalidA s).out = s.out := rfl
@[simp] theorem forceInvalidA_res : (forceInvalidA s).res = s.res := rfl
@[simp] theorem forceInvalidA_status : (forceInvalidA s).status = s.status := rfl
@[simp] theorem forceInvalidA_port : (forceInvalidA s).port = s.port := rfl
@[simp] theorem forceInvalidA_readData : (forceInvalidA s).readData = s.readData := rfl
@[simp] theorem forceInvalidA_resetDone : (forceInvalidA s).resetDone = s.resetDone := rfl

@[simp] theorem forceInvalidP_instA : (forceInvalidP s).instA = s.instA := rfl
@[simp] theorem forceInvalidP_instAs : (forceInvalidP s).instAs = s.instAs := rfl
@[simp] theorem forceInvalidP_instP : (forceInvalidP s).instP = { s.instP with hc1 := Config.hcInvalid, hc2 := Config.hcInvalid } := State.setInstP_instP _ _
@[simp] theorem forceInvalidP_instPs :
    (forceInvalidP s).instPs =
      setInstance s.instPs { s.instP with hc1 := Config.hcInvalid, hc2 := Config.hcInvalid } := rfl
@[simp] theorem forceInvalidP_instR : (forceInvalidP s).instR = s.instR := rfl
@[simp] theorem forceInvalidP_instRs : (forceInvalidP s).instRs = s.instRs := rfl
@[simp] theorem forceInvalidP_buf : (forceInvalidP s).buf = s.buf := rfl
@[simp] theorem forceInvalidP_arg : (forceInvalidP s).arg = s.arg := rfl
@[simp] theorem forceInvalidP_out : (forceInvalidP s).out = s.out := rfl
@[simp] theorem forceInvalidP_res : (forceInvalidP s).res = s.res := rfl
@[simp] theorem forceInvalidP_status : (forceInvalidP s).status = s.status := rfl
@[simp] theorem forceInvalidP_port : (forceInvalidP s).port = s.port := rfl
@[simp] theorem forceInvalidP_readData : (forceInvalidP s).readData = s.readData := rfl
@[simp] theorem forceInvalidP_resetDone : (forceInvalidP s).resetDone = s.resetDone := rfl

@[simp] theorem forceInvalidR_instA : (forceInvalidR s).instA = s.instA := rfl
@[simp] theorem forceInvalidR_instAs : (forceInvalidR s).instAs = s.instAs := rfl
@[simp] theorem forceInvalidR_instP : (forceInvalidR s).instP = s.instP := rfl
@[simp] theorem forceInvalidR_instPs : (forceInvalidR s).instPs = s.instPs := rfl
@[simp] theorem forceInvalidR_instR : (forceInvalidR s).instR = { s.instR with hc1 := Config.hcInvalid, hc2 := Config.hcInvalid } := State.setInstR_instR _ _
@[simp] theorem forceInvalidR_instRs :
    (forceInvalidR s).instRs =
      setInstance s.instRs { s.instR with hc1 := Config.hcInvalid, hc2 := Config.hcInvalid } := rfl
@[simp] theorem forceInvalidR_buf : (forceInvalidR s).buf = s.buf := rfl
@[simp] theorem forceInvalidR_arg : (forceInvalidR s).arg = s.arg := rfl
@[simp] theorem forceInvalidR_out : (forceInvalidR s).out = s.out := rfl
@[simp] theorem forceInvalidR_res : (forceInvalidR s).res = s.res := rfl
@[simp] theorem forceInvalidR_status : (forceInvalidR s).status = s.status := rfl
@[simp] theorem forceInvalidR_port : (forceInvalidR s).port = s.port := rfl
@[simp] theorem forceInvalidR_readData : (forceInvalidR s).readData = s.readData := rfl
@[simp] theorem forceInvalidR_resetDone : (forceInvalidR s).resetDone = s.resetDone := rfl

@[simp] theorem raiseIllegalCommand_instA : (raiseIllegalCommand s).instA = s.instA := rfl
@[simp] theorem raiseIllegalCommand_instAs : (raiseIllegalCommand s).instAs = s.instAs := rfl
@[simp] theorem raiseIllegalCommand_instP : (raiseIllegalCommand s).instP = s.instP := rfl
@[simp] theorem raiseIllegalCommand_instPs : (raiseIllegalCommand s).instPs = s.instPs := rfl
@[simp] theorem raiseIllegalCommand_instR : (raiseIllegalCommand s).instR = s.instR := rfl
@[simp] theorem raiseIllegalCommand_instRs : (raiseIllegalCommand s).instRs = s.instRs := rfl
@[simp] theorem raiseIllegalCommand_buf : (raiseIllegalCommand s).buf = s.buf := rfl
@[simp] theorem raiseIllegalCommand_arg : (raiseIllegalCommand s).arg = s.arg := rfl
@[simp] theorem raiseIllegalCommand_out : (raiseIllegalCommand s).out = s.out := rfl
@[simp] theorem raiseIllegalCommand_res : (raiseIllegalCommand s).res = 0 := rfl
@[simp] theorem raiseIllegalCommand_status : (raiseIllegalCommand s).status = s.status ||| 0x01 := rfl
@[simp] theorem raiseIllegalCommand_port : (raiseIllegalCommand s).port = s.port := rfl
@[simp] theorem raiseIllegalCommand_readData : (raiseIllegalCommand s).readData = s.readData := rfl
@[simp] theorem raiseIllegalCommand_resetDone : (raiseIllegalCommand s).resetDone = s.resetDone := rfl

@[simp] theorem applyReset_instA : (applyReset s).instA = State.reset.instA := rfl
@[simp] theorem applyReset_instAs : (applyReset s).instAs = State.reset.instAs := rfl
@[simp] theorem applyReset_instP : (applyReset s).instP = State.reset.instP := rfl
@[simp] theorem applyReset_instPs : (applyReset s).instPs = State.reset.instPs := rfl
@[simp] theorem applyReset_instR : (applyReset s).instR = State.reset.instR := rfl
@[simp] theorem applyReset_instRs : (applyReset s).instRs = State.reset.instRs := rfl
@[simp] theorem applyReset_buf : (applyReset s).buf = State.reset.buf := rfl
@[simp] theorem applyReset_arg : (applyReset s).arg = State.reset.arg := rfl
@[simp] theorem applyReset_out : (applyReset s).out = State.reset.out := rfl
@[simp] theorem applyReset_res : (applyReset s).res = State.reset.res := rfl
@[simp] theorem applyReset_status : (applyReset s).status = State.reset.status := rfl
@[simp] theorem applyReset_port : (applyReset s).port = s.port := rfl
@[simp] theorem applyReset_readData : (applyReset s).readData = s.readData := rfl
@[simp] theorem applyReset_resetDone : (applyReset s).resetDone = State.reset.resetDone := rfl

@[simp] theorem withCommand_instA (w : CmdWord) : (withCommand w s).instA = s.instA := rfl
@[simp] theorem withCommand_instAs (w : CmdWord) : (withCommand w s).instAs = s.instAs := rfl
@[simp] theorem withCommand_instP (w : CmdWord) : (withCommand w s).instP = s.instP := rfl
@[simp] theorem withCommand_instPs (w : CmdWord) : (withCommand w s).instPs = s.instPs := rfl
@[simp] theorem withCommand_instR (w : CmdWord) : (withCommand w s).instR = s.instR := rfl
@[simp] theorem withCommand_instRs (w : CmdWord) : (withCommand w s).instRs = s.instRs := rfl
@[simp] theorem withCommand_buf (w : CmdWord) : (withCommand w s).buf = s.buf := rfl
@[simp] theorem withCommand_arg (w : CmdWord) : (withCommand w s).arg = s.arg := rfl
@[simp] theorem withCommand_out (w : CmdWord) : (withCommand w s).out = s.out := rfl
@[simp] theorem withCommand_res (w : CmdWord) : (withCommand w s).res = s.res := rfl
@[simp] theorem withCommand_status (w : CmdWord) : (withCommand w s).status = s.status := rfl
@[simp] theorem withCommand_port (w : CmdWord) : (withCommand w s).port = .command w :: s.port := rfl
@[simp] theorem withCommand_readData (w : CmdWord) : (withCommand w s).readData = s.readData := rfl
@[simp] theorem withCommand_resetDone (w : CmdWord) : (withCommand w s).resetDone = true := rfl

/-! Updates that meet one another. -/

@[simp] theorem State.setInstA_setInstA (x y : Alert) : (s.setInstA x).setInstA y = s.setInstA y := by
  simp [State.setInstA]

@[simp] theorem State.setInstA_self : s.setInstA s.instA = s := by
  simp [State.setInstA, State.instA]

@[simp] theorem forceInvalidA_setInstA (x : Alert) : (forceInvalidA s).setInstA x = s.setInstA x :=
  State.setInstA_setInstA _ _ _

@[simp] theorem State.setInstP_setInstP (x y : PollCmd) : (s.setInstP x).setInstP y = s.setInstP y := by
  simp [State.setInstP]

@[simp] theorem State.setInstP_self : s.setInstP s.instP = s := by
  simp [State.setInstP, State.instP]

@[simp] theorem forceInvalidP_setInstP (x : PollCmd) : (forceInvalidP s).setInstP x = s.setInstP x :=
  State.setInstP_setInstP _ _ _

@[simp] theorem State.setInstR_setInstR (x y : PollResp) : (s.setInstR x).setInstR y = s.setInstR y := by
  simp [State.setInstR]

@[simp] theorem State.setInstR_self : s.setInstR s.instR = s := by
  simp [State.setInstR, State.instR]

@[simp] theorem forceInvalidR_setInstR (x : PollResp) : (forceInvalidR s).setInstR x = s.setInstR x :=
  State.setInstR_setInstR _ _ _

@[simp] theorem State.setRes_setInstA (v : Byte) (x : Alert) : (s.setRes v).setInstA x = (s.setInstA x).setRes v := rfl

@[simp] theorem forceInvalidA_setRes (v : Byte) : forceInvalidA (s.setRes v) = (forceInvalidA s).setRes v := rfl

@[simp] theorem forceInvalidA_of_setInstA (x : Alert) :
    forceInvalidA (s.setInstA x) = s.setInstA { x with hc1 := Config.hcInvalid, hc2 := Config.hcInvalid } := by
  simp [forceInvalidA]

@[simp] theorem forceInvalidA_forceInvalidA : forceInvalidA (forceInvalidA s) = forceInvalidA s := by
  simp [forceInvalidA]

@[simp] theorem State.setRes_setInstP (v : Byte) (x : PollCmd) : (s.setRes v).setInstP x = (s.setInstP x).setRes v := rfl

@[simp] theorem forceInvalidP_setRes (v : Byte) : forceInvalidP (s.setRes v) = (forceInvalidP s).setRes v := rfl

@[simp] theorem forceInvalidP_of_setInstP (x : PollCmd) :
    forceInvalidP (s.setInstP x) = s.setInstP { x with hc1 := Config.hcInvalid, hc2 := Config.hcInvalid } := by
  simp [forceInvalidP]

@[simp] theorem forceInvalidP_forceInvalidP : forceInvalidP (forceInvalidP s) = forceInvalidP s := by
  simp [forceInvalidP]

@[simp] theorem State.setRes_setInstR (v : Byte) (x : PollResp) : (s.setRes v).setInstR x = (s.setInstR x).setRes v := rfl

@[simp] theorem forceInvalidR_setRes (v : Byte) : forceInvalidR (s.setRes v) = (forceInvalidR s).setRes v := rfl

@[simp] theorem forceInvalidR_of_setInstR (x : PollResp) :
    forceInvalidR (s.setInstR x) = s.setInstR { x with hc1 := Config.hcInvalid, hc2 := Config.hcInvalid } := by
  simp [forceInvalidR]

@[simp] theorem forceInvalidR_forceInvalidR : forceInvalidR (forceInvalidR s) = forceInvalidR s := by
  simp [forceInvalidR]

@[simp] theorem State.setRes_setRes (v w : Byte) : (s.setRes v).setRes w = s.setRes w := rfl

theorem State.setRes_setOut (v : Byte) (vs : List Byte) : (s.setRes v).setOut vs = (s.setOut vs).setRes v := rfl

/-- Byte i of a result file after a write: the list's, or the one that stood there (R20, R68). -/
@[simp] theorem getElem_writeBytes {n : Nat} (out : Vector Byte n) (vs : List Byte) (i : Nat) (h : i < n) :
    (writeBytes out vs)[i] = vs[i]?.getD out[i] := by
  simp [writeBytes]

@[simp] theorem State.setOut_setOut (vs : List Byte) : (s.setOut vs).setOut vs = s.setOut vs := by
  have h : ((s.setOut vs).setOut vs).out = (s.setOut vs).out := by
    apply Vector.ext
    intro k hk
    simp only [State.setOut_out, getElem_writeBytes]
    cases vs[k]? <;> rfl
  simp only [State.setOut] at h ⊢
  rw [h]

end

end Machine
end Sys2Proof
end

