-- ==== Sys2Proof/Laws/Memory.lean ====
section
/-! SUPPORT. The laws of BUF: reading after a write, the canonical form, and what the whole-frame operations do. -/

namespace Sys2Proof
namespace Machine

/-! ### One byte -/

@[simp] theorem Memory.read_nil (a : Nat) : Memory.read [] a = none := rfl

theorem Memory.read_write (m : Memory) (a : Nat) (v : Byte) (b : Nat) :
    Memory.read (Memory.write m a v) b = if b = a then some v else Memory.read m b := by
  induction m with
  | nil => simp [Memory.write, Memory.read, eq_comm]
  | cons c m ih =>
    obtain ⟨k, u⟩ := c
    simp only [Memory.write]
    split
    · simp [Memory.read, eq_comm]
    · split
      · rename_i _ hk
        subst hk
        simp only [Memory.read, eq_comm (a := b)]
        split <;> rfl
      · rename_i _ hk
        simp only [Memory.read, ih]
        by_cases h : k = b
        · subst h
          simp [Ne.symm hk]
        · simp [h]

@[simp] theorem Memory.read_write_same (m : Memory) (a : Nat) (v : Byte) :
    Memory.read (Memory.write m a v) a = some v := by
  simp [Memory.read_write]

theorem Memory.read_write_other (m : Memory) (a : Nat) (v : Byte) {b : Nat} (h : b ≠ a) :
    Memory.read (Memory.write m a v) b = Memory.read m b := by
  simp [Memory.read_write, h]

theorem Memory.mem_write {m : Memory} {a : Nat} {v : Byte} {c : Host.Cell} (h : c ∈ Memory.write m a v) :
    c = (a, v) ∨ c ∈ m := by
  induction m with
  | nil => simpa [Memory.write] using h
  | cons d m ih =>
    obtain ⟨k, u⟩ := d
    simp only [Memory.write] at h
    split at h
    · simpa using h
    · split at h
      · rcases List.mem_cons.mp h with h | h
        · exact .inl h
        · exact .inr (List.mem_cons_of_mem _ h)
      · rcases List.mem_cons.mp h with h | h
        · exact .inr (h ▸ List.mem_cons_self)
        · exact (ih h).imp id (List.mem_cons_of_mem _)

theorem Memory.write_wf {m : Memory} {a : Nat} {v : Byte} (hm : Memory.wf m) (ha : a < Config.bufBytes) :
    Memory.wf (Memory.write m a v) := by
  refine ⟨?_, fun c hc => ?_⟩
  · have hs := hm.1
    clear hm
    induction m with
    | nil => simp [Memory.write]
    | cons d m ih =>
      obtain ⟨k, u⟩ := d
      obtain ⟨h1, h2⟩ := List.pairwise_cons.mp hs
      simp only [Memory.write]
      split
      · rename_i hlt
        refine List.pairwise_cons.mpr ⟨fun c hc => ?_, hs⟩
        rcases List.mem_cons.mp hc with rfl | hc
        · exact hlt
        · exact Nat.lt_trans hlt (h1 c hc)
      · split
        · rename_i _ he
          subst he
          exact List.pairwise_cons.mpr ⟨h1, h2⟩
        · rename_i hlt hne
          refine List.pairwise_cons.mpr ⟨fun c hc => ?_, ih h2⟩
          rcases Memory.mem_write hc with rfl | hc
          · exact Nat.lt_of_le_of_ne (Nat.le_of_not_lt hlt) (Ne.symm hne)
          · exact h1 c hc
  · rcases Memory.mem_write hc with rfl | hc
    · exact ha
    · exact hm.2 c hc

theorem Memory.nil_wf : Memory.wf [] := by simp [Memory.wf]

/-- Two buffers in canonical form that read alike are the same data. -/
theorem Memory.wf_ext {m n : Memory} (hm : Memory.wf m) (hn : Memory.wf n)
    (h : ∀ a, Memory.read m a = Memory.read n a) : m = n := by
  have below : ∀ (m : Memory) (a : Nat), (∀ c ∈ m, a < c.1) → Memory.read m a = none := by
    intro m a
    induction m with
    | nil => simp
    | cons c m ih =>
      obtain ⟨k, u⟩ := c
      intro h
      have hk : a < k := h (k, u) List.mem_cons_self
      have : k ≠ a := by omega
      simp only [Memory.read, this, if_false]
      exact ih fun c hc => h c (List.mem_cons_of_mem _ hc)
  obtain ⟨hm, -⟩ := hm
  obtain ⟨hn, -⟩ := hn
  induction m generalizing n with
  | nil =>
    cases n with
    | nil => rfl
    | cons c n => exact absurd (h c.1) (by simp [Memory.read])
  | cons c m ih =>
    cases n with
    | nil => exact absurd (h c.1) (by simp [Memory.read])
    | cons d n =>
      obtain ⟨k, u⟩ := c
      obtain ⟨l, w⟩ := d
      obtain ⟨hm1, hm2⟩ := List.pairwise_cons.mp hm
      obtain ⟨hn1, hn2⟩ := List.pairwise_cons.mp hn
      have hkl : k = l := by
        rcases Nat.lt_trichotomy k l with hlt | heq | hgt
        · have h1 := h k
          rw [below ((l, w) :: n) k] at h1
          · simp [Memory.read] at h1
          · intro c hc
            rcases List.mem_cons.mp hc with rfl | hc
            · exact hlt
            · exact Nat.lt_trans hlt (hn1 c hc)
        · exact heq
        · have h1 := h l
          rw [below ((k, u) :: m) l] at h1
          · simp [Memory.read] at h1
          · intro c hc
            rcases List.mem_cons.mp hc with rfl | hc
            · exact hgt
            · exact Nat.lt_trans hgt (hm1 c hc)
      subst hkl
      have huw : u = w := by simpa [Memory.read] using h k
      subst huw
      rw [ih (fun a => ?_) hm2 hn2]
      by_cases ha : k = a
      · subst ha
        rw [below m k hm1, below n k hn1]
      · simpa [Memory.read, ha] using h a

theorem memRead_eq_ok {m : Memory} {a n : Nat} {v : Byte} :
    memRead m a n = .ok v ↔ a < n ∧ Memory.read m a = some v := by
  unfold memRead
  split <;> rename_i h
  · cases hr : Memory.read m a <;> simp [h]
  · simp [h]

theorem memRead_eq_error {m : Memory} {a n : Nat} {f : Fault} (h : memRead m a n = .error f) (ha : a < n) :
    f = .unspecifiedByte a ∧ Memory.read m a = none := by
  unfold memRead at h
  rw [if_pos ha] at h
  cases hr : Memory.read m a <;> simp [hr] at h
  exact ⟨h.symm, rfl⟩

theorem memWrite_eq_ok {m m' : Memory} {a n : Nat} {v : Byte} :
    memWrite m a v n = .ok m' ↔ a < n ∧ Memory.write m a v = m' := by
  unfold memWrite
  split <;> rename_i h <;> simp [h]

theorem memWrite_wf {m n : Memory} {a : Nat} {v : Byte} (hm : Memory.wf m) (h : memWrite m a v = .ok n) :
    Memory.wf n := by
  obtain ⟨ha, rfl⟩ := memWrite_eq_ok.mp h
  exact Memory.write_wf hm ha

/-! ### Frames -/

/-- Byte i of a payload. -/
def Payload.byte (b : Payload) : Nat → Option Byte
  | 0 => some b.b0
  | 1 => some b.b1
  | 2 => some b.b2
  | 3 => some b.b3
  | 4 => some b.b4
  | 5 => some b.b5
  | 6 => some b.b6
  | _ => none

theorem except_bind_eq_ok {ε α β : Type} {x : Except ε α} {f : α → Except ε β} {b : β} :
    (x >>= f) = .ok b ↔ ∃ a, x = .ok a ∧ f a = .ok b := by
  cases x <;> simp [bind, Except.bind]

theorem except_bind_eq_error {ε α β : Type} {x : Except ε α} {f : α → Except ε β} {e : ε} :
    (x >>= f) = .error e ↔ x = .error e ∨ ∃ a, x = .ok a ∧ f a = .error e := by
  cases x <;> simp [bind, Except.bind]

theorem readPayload_eq_ok {m : Memory} {b : Payload} :
    readPayload m = .ok b ↔
      Memory.read m 0 = some b.b0 ∧ Memory.read m 1 = some b.b1 ∧ Memory.read m 2 = some b.b2 ∧
      Memory.read m 3 = some b.b3 ∧ Memory.read m 4 = some b.b4 ∧ Memory.read m 5 = some b.b5 ∧
      Memory.read m 6 = some b.b6 := by
  unfold readPayload
  simp only [except_bind_eq_ok, memRead_eq_ok, Config.bufBytes, pure, Except.pure]
  constructor
  · rintro ⟨b0, ⟨-, h0⟩, b1, ⟨-, h1⟩, b2, ⟨-, h2⟩, b3, ⟨-, h3⟩, b4, ⟨-, h4⟩, b5, ⟨-, h5⟩, b6, ⟨-, h6⟩, h⟩
    cases h
    exact ⟨h0, h1, h2, h3, h4, h5, h6⟩
  · rintro ⟨h0, h1, h2, h3, h4, h5, h6⟩
    exact ⟨_, ⟨by decide, h0⟩, _, ⟨by decide, h1⟩, _, ⟨by decide, h2⟩, _, ⟨by decide, h3⟩, _, ⟨by decide, h4⟩,
      _, ⟨by decide, h5⟩, _, ⟨by decide, h6⟩, rfl⟩

theorem readFrame_eq_ok {m : Memory} {f : Frame} :
    readFrame m = .ok f ↔ readPayload m = .ok f.payload ∧ Memory.read m 7 = some f.check := by
  unfold readFrame
  simp only [except_bind_eq_ok, memRead_eq_ok, Config.bufBytes, pure, Except.pure]
  constructor
  · rintro ⟨b, hb, c, ⟨-, hc⟩, h⟩
    cases h
    exact ⟨hb, hc⟩
  · rintro ⟨hb, hc⟩
    exact ⟨_, hb, _, ⟨by decide, hc⟩, rfl⟩

/-- A payload read stops only on an unspecified byte of B[0..6]. -/
theorem readPayload_eq_error {m : Memory} {f : Fault} (h : readPayload m = .error f) :
    ∃ a, a < 7 ∧ f = .unspecifiedByte a ∧ Memory.read m a = none := by
  unfold readPayload at h
  simp only [except_bind_eq_error, pure, Except.pure] at h
  rcases h with h | ⟨_, -, h | ⟨_, -, h | ⟨_, -, h | ⟨_, -, h | ⟨_, -, h | ⟨_, -, h | ⟨_, -, h⟩⟩⟩⟩⟩⟩⟩
  · exact ⟨0, by decide, memRead_eq_error h (by decide)⟩
  · exact ⟨1, by decide, memRead_eq_error h (by decide)⟩
  · exact ⟨2, by decide, memRead_eq_error h (by decide)⟩
  · exact ⟨3, by decide, memRead_eq_error h (by decide)⟩
  · exact ⟨4, by decide, memRead_eq_error h (by decide)⟩
  · exact ⟨5, by decide, memRead_eq_error h (by decide)⟩
  · exact ⟨6, by decide, memRead_eq_error h (by decide)⟩
  · cases h

/-- A frame read stops only on an unspecified byte of B[0..7]. -/
theorem readFrame_eq_error {m : Memory} {f : Fault} (h : readFrame m = .error f) :
    ∃ a, a < 8 ∧ f = .unspecifiedByte a ∧ Memory.read m a = none := by
  unfold readFrame at h
  simp only [except_bind_eq_error, pure, Except.pure] at h
  rcases h with h | ⟨_, -, h | ⟨_, -, h⟩⟩
  · obtain ⟨a, ha, h⟩ := readPayload_eq_error h
    exact ⟨a, Nat.lt_succ_of_lt ha, h⟩
  · exact ⟨7, by decide, memRead_eq_error h (by decide)⟩
  · cases h

theorem readPayload_of_specified {m : Memory} (h : Specified 7 m) : ∃ b, readPayload m = .ok b := by
  cases hr : readPayload m with
  | ok b => exact ⟨b, rfl⟩
  | error f =>
    obtain ⟨a, ha, -, hn⟩ := readPayload_eq_error hr
    have := h a ha
    simp [hn] at this

theorem readFrame_of_specified {m : Memory} (h : Specified 8 m) : ∃ f, readFrame m = .ok f := by
  cases hr : readFrame m with
  | ok b => exact ⟨b, rfl⟩
  | error f =>
    obtain ⟨a, ha, -, hn⟩ := readFrame_eq_error hr
    have := h a ha
    simp [hn] at this

/-- The buffer after the write sequence (R91). -/
def storePayload (m : Memory) (p : Payload) : Memory :=
  let m := Memory.write m 0 p.b0
  let m := Memory.write m 1 p.b1
  let m := Memory.write m 2 p.b2
  let m := Memory.write m 3 p.b3
  let m := Memory.write m 4 p.b4
  let m := Memory.write m 5 p.b5
  Memory.write m 6 p.b6

/-- The write sequence never stops on a BUF of BUF_BYTES bytes. -/
@[simp] theorem writePayload_eq (m : Memory) (b : Payload) : writePayload m b = .ok (storePayload m b) := rfl

/-- After the write sequence, B[0..6] are the payload and every other byte reads as before (R91). -/
theorem read_storePayload (m : Memory) (b : Payload) (a : Nat) :
    Memory.read (storePayload m b) a = (b.byte a).or (Memory.read m a) := by
  simp only [storePayload, Memory.read_write]
  match a with
  | 0 | 1 | 2 | 3 | 4 | 5 | 6 => simp [Payload.byte]
  | n + 7 => simp [Payload.byte]

theorem storePayload_wf {m : Memory} {b : Payload} (h : Memory.wf m) : Memory.wf (storePayload m b) := by
  unfold storePayload
  iterate 7 refine Memory.write_wf ?_ (by decide)
  exact h

@[simp] theorem readPayload_storePayload (m : Memory) (b : Payload) : readPayload (storePayload m b) = .ok b := by
  simp [readPayload_eq_ok, read_storePayload, Payload.byte]

end Machine
end Sys2Proof
end

