-- ==== Sys2Proof/Laws/Ops.lean ====
section
/-! SUPPORT. One lemma per shared operation: everything it can do. -/

namespace Sys2Proof
namespace Machine

/-! ### Operand checks -/

theorem bufferShort_iff {n len : Nat} {nb : Bool} : bufferShort n len nb = true ↔ nb = true ∨ len < n := by
  simp [bufferShort]

theorem encodeRejected_iff {len : Nat} {ck nb : Bool} :
    encodeRejected len ck nb = true ↔ nb = true ∨ len < 7 ∨ (ck = true ∧ len < 8) := by
  simp [encodeRejected, bufferShort, Config.framePayloadBytes, Config.frameBytes, or_assoc]

theorem clamp_toNat {v lo hi : Byte} (h : lo.toNat ≤ hi.toNat) :
    (clamp v lo hi).toNat = max lo.toNat (min v.toNat hi.toNat) := by
  unfold clamp
  simp only [BitVec.lt_def, gt_iff_lt]
  split
  · omega
  · split <;> omega

theorem boolOf_iff {v : Byte} : boolOf v = true ↔ v ≠ 0 := by simp [boolOf]

theorem houseCodeValid_iff {a b : Byte} : houseCodeValid a b = true ↔ a ≠ 0xFF ∧ b ≠ 0xFF := by
  simp [houseCodeValid, Config.hcInvalid]

/-! ### CRC7 -/

/-- CRC7(LEN, NB) answers 0 on a failed length check, the checksum of B[0..6] where they are specified, and is stuck
otherwise (R73, R74). -/
theorem crc7_cases (p : Params) (len : Nat) (nb : Bool) (m : Memory) :
    ((nb = true ∨ len < 7) ∧ crc7 p len nb m = .ok 0) ∨
    (nb = false ∧ 7 ≤ len ∧ ∃ b, readPayload m = .ok b ∧ crc7 p len nb m = .ok (checksum p b)) ∨
    (nb = false ∧ 7 ≤ len ∧ ∃ a, a < 7 ∧ Memory.read m a = none ∧ crc7 p len nb m = .error (.unspecifiedByte a)) := by
  unfold crc7
  by_cases h : bufferShort Config.framePayloadBytes len nb = true
  · rw [if_pos h]
    exact .inl ⟨bufferShort_iff.mp h, rfl⟩
  · rw [if_neg h]
    have h' : nb = false ∧ 7 ≤ len := by simpa [bufferShort, Config.framePayloadBytes] using h
    refine .inr ?_
    cases hr : readPayload m with
    | ok b => exact .inl ⟨h'.1, h'.2, b, rfl, rfl⟩
    | error f =>
      obtain ⟨a, ha, rfl, hn⟩ := readPayload_eq_error hr
      exact .inr ⟨h'.1, h'.2, a, ha, hn, rfl⟩

/-- The checksum an ENC.x with CK = 1 computes over the bytes it has just written (R91). -/
theorem crc7_storePayload {p : Params} {len : Nat} (m : Memory) (b : Payload) (h : 7 ≤ len) :
    crc7 p len false (storePayload m b) = .ok (checksum p b) := by
  have : ¬ bufferShort Config.framePayloadBytes len false = true := by
    simp [bufferShort, Config.framePayloadBytes, h]
  rw [crc7, if_neg this, readPayload_storePayload]
  rfl

/-! ### The encoder -/

/-- The buffer after an accepted ENC.x (R91). -/
def encodedBuf (p : Params) (b : Payload) (ck : Bool) (m : Memory) : Memory :=
  if ck then Memory.write (storePayload m b) 7 (checksum p b) else storePayload m b

/-- Past ENC.x's length check the write sequence never stops (R91). -/
theorem writeFrame_eq {p : Params} {b : Payload} {len : Nat} {ck : Bool} {m : Memory} (h : 7 ≤ len) :
    writeFrame p b len ck m = .ok (encodedBuf p b ck m) := by
  cases ck with
  | false => rfl
  | true =>
    simp only [writeFrame, writePayload_eq, encodedBuf, if_true]
    show (crc7 p len false (storePayload m b) >>= fun c => memWrite (storePayload m b) 7 c) = _
    rw [crc7_storePayload m b h]
    rfl

/-- ENC.x never stops: it writes RES only where R90 rejects it, and the frame otherwise (R91). -/
theorem encodeFrame_eq (p : Params) (b : Payload) (len : Nat) (ck nb : Bool) (s : State) :
    encodeFrame p b len ck nb s =
      if encodeRejected len ck nb then .next (s.setRes 0)
      else .next ((s.setBuf (encodedBuf p b ck s.buf)).setRes (if ck then 8 else 7)) := by
  unfold encodeFrame
  by_cases h : encodeRejected len ck nb = true
  · simp [h, failWith]
  · have hl : 7 ≤ len := by
      have := mt encodeRejected_iff.mpr h
      omega
    simp only [h, writeFrame_eq hl]
    rfl

theorem read_encodedBuf (p : Params) (b : Payload) (ck : Bool) (m : Memory) (a : Nat) :
    Memory.read (encodedBuf p b ck m) a =
      if a = 7 then (if ck then some (checksum p b) else Memory.read m 7) else (b.byte a).or (Memory.read m a) := by
  unfold encodedBuf
  cases ck
  · by_cases h : a = 7
    · subst h
      simp [read_storePayload, Payload.byte]
    · simp [read_storePayload, h]
  · by_cases h : a = 7 <;> simp [Memory.read_write, read_storePayload, h]

theorem encodedBuf_wf {p : Params} {b : Payload} {ck : Bool} {m : Memory} (h : Memory.wf m) :
    Memory.wf (encodedBuf p b ck m) := by
  unfold encodedBuf
  split
  · exact Memory.write_wf (storePayload_wf h) (by decide)
  · exact storePayload_wf h

/-! ### The decoder -/

theorem validateFrame_eq_some {α : Type} {p : Params} {ty : Byte} {unpack : Payload → Option α} {f : Frame} {x : α} :
    validateFrame p ty unpack f = some x ↔
      f.payload.b0 = ty ∧ unpack f.payload = some x ∧ f.check = checksum p f.payload := by
  unfold validateFrame
  by_cases h0 : f.payload.b0 = ty
  · cases hu : unpack f.payload with
    | none => simp [h0]
    | some y => by_cases hc : f.check = checksum p f.payload <;> simp [h0, hc]
  · simp [h0]

/-- DEC.x fails its length check, or is stuck on an unspecified byte of B[0..7], or fails a check, or assigns the message
(R98 to R102). -/
theorem decodeFrame_cases {α : Type} (p : Params) (ty : Byte) (unpack : Payload → Option α) (force : State → State)
    (assign : State → α → State) (len : Nat) (nb : Bool) (s : State) :
    ((nb = true ∨ len < 8) ∧ decodeFrame p ty unpack force assign len nb s = .next ((force s).setRes 0)) ∨
    (nb = false ∧ 8 ≤ len ∧ ∃ f, readFrame s.buf = .ok f ∧
      ((validateFrame p ty unpack f = none ∧
          decodeFrame p ty unpack force assign len nb s = .next ((force s).setRes 0)) ∨
        ∃ x, validateFrame p ty unpack f = some x ∧
          decodeFrame p ty unpack force assign len nb s = .next ((assign (force s) x).setRes 8))) ∨
    (nb = false ∧ 8 ≤ len ∧ ∃ a, a < 8 ∧ Memory.read s.buf a = none ∧
      decodeFrame p ty unpack force assign len nb s = .fault (.unspecifiedByte a)) := by
  unfold decodeFrame
  by_cases h : bufferShort Config.frameBytes len nb = true
  · rw [if_pos h]
    exact .inl ⟨bufferShort_iff.mp h, rfl⟩
  · rw [if_neg h]
    have h' : nb = false ∧ 8 ≤ len := by simpa [bufferShort, Config.frameBytes] using h
    refine .inr ?_
    cases hr : readFrame s.buf with
    | ok f =>
      refine .inl ⟨h'.1, h'.2, f, rfl, ?_⟩
      cases hv : validateFrame p ty unpack f with
      | none => exact .inl ⟨rfl, by simp [hv, failWith]⟩
      | some x => exact .inr ⟨x, rfl, by simp [hv]⟩
    | error f =>
      obtain ⟨a, ha, rfl, hn⟩ := readFrame_eq_error hr
      exact .inr ⟨h'.1, h'.2, a, ha, hn, rfl⟩

/-- What a DEC.x makes of LEN, NB and BUF: stuck, failed, or a message. -/
def decodeVerdict {α : Type} (p : Params) (ty : Byte) (unpack : Payload → Option α) (len : Nat) (nb : Bool) (m : Memory) :
    Except Fault (Option α) :=
  if bufferShort Config.frameBytes len nb then .ok none else (readFrame m).map (validateFrame p ty unpack)

/-- DEC.x reads LEN, NB and BUF only; of the instance it keeps what ForceInvalid keeps. -/
theorem decodeFrame_eq {α : Type} (p : Params) (ty : Byte) (unpack : Payload → Option α) (force : State → State)
    (assign : State → α → State) (len : Nat) (nb : Bool) (s : State) :
    decodeFrame p ty unpack force assign len nb s =
      match decodeVerdict p ty unpack len nb s.buf with
      | .error f => .fault f
      | .ok none => .next ((force s).setRes 0)
      | .ok (some x) => .next ((assign (force s) x).setRes 8) := by
  unfold decodeFrame decodeVerdict
  split
  · rfl
  · cases readFrame s.buf with
    | error f => rfl
    | ok f => cases hv : validateFrame p ty unpack f <;> simp [Except.map, hv, failWith]

/-! ### The port -/

theorem step_nil {s : State} (h : s.port = []) : step s = .next s := by
  simp [step, serveNext, h]

theorem step_cons {s : State} {a : HostAccess} {rest : List HostAccess} (h : s.port = a :: rest) :
    step s = hostAccess a (s.setPort rest) := by
  simp [step, serveNext, h]

theorem hostAccess_ready {a : HostAccess} {s : State} (h : s.resetDone = true) : hostAccess a s = serve a s := by
  simp [hostAccess, h]

/-- What a step that goes on has done: idled, reset, run a command, raised IllegalCommand, or served a host access. -/
theorem step_cases {s t : State} (h : step s = .next t) :
    (s.port = [] ∧ t = s) ∨
    (∃ rest, (s.port = .reset :: rest ∨ ∃ w, s.port = .resetDuring w :: rest) ∧ t = applyReset (s.setPort rest)) ∨
    (s.resetDone = true ∧ ∃ a rest, s.port = a :: rest ∧
      ((∃ w i, a = .command w ∧ decode w = .ok i ∧ exec i (s.setPort rest) = .next t) ∨
       (∃ w e, a = .command w ∧ decode w = .error e ∧ t = raiseIllegalCommand (s.setPort rest)) ∨
       (∃ i v, a = .writeBuf i v ∧ i < 8 ∧ t = (s.setPort rest).setBuf (Memory.write s.buf i v)) ∨
       (∃ i v, a = .writeArg i.val v ∧ t = (s.setPort rest).setArg i v) ∨
       (∃ v, a = .writeStatus v ∧ t = s.setPort rest) ∨
       (∃ v, t = (s.setPort rest).setReadData v))) := by
  cases hp : s.port with
  | nil =>
    rw [step_nil hp] at h
    cases h
    exact .inl ⟨rfl, rfl⟩
  | cons a rest =>
    rw [step_cons hp] at h
    refine .inr ?_
    cases hr : s.resetDone with
    | false =>
      rw [hostAccess, if_neg (by simp [hr])] at h
      cases a <;> simp only [serveBeforeReset, reduceCtorEq, Host.Outcome.next.injEq] at h
      · exact .inl ⟨rest, .inl rfl, h.symm⟩
      · exact .inl ⟨rest, .inr ⟨_, rfl⟩, h.symm⟩
    | true =>
      rw [hostAccess_ready (by simp [hr])] at h
      cases a with
      | command w =>
        refine .inr ⟨rfl, _, rest, rfl, ?_⟩
        simp only [serve, issue] at h
        cases hd : decode w with
        | ok i => exact .inl ⟨w, i, rfl, hd, by simpa [hd] using h⟩
        | error e => exact .inr (.inl ⟨w, e, rfl, hd, by simpa [hd, eq_comm] using h⟩)
      | writeBuf i v =>
        refine .inr ⟨rfl, _, rest, rfl, .inr (.inr (.inl ⟨i, v, rfl, ?_⟩))⟩
        simp only [serve, hostWriteBuf] at h
        split at h
        · rename_i m hm
          obtain ⟨hi, rfl⟩ := memWrite_eq_ok.mp hm
          cases h
          exact ⟨hi, rfl⟩
        · cases h
      | writeArg i v =>
        refine .inr ⟨rfl, _, rest, rfl, .inr (.inr (.inr (.inl ?_)))⟩
        simp only [serve, hostWriteArg] at h
        split at h
        · rename_i hi
          cases h
          exact ⟨⟨i, hi⟩, v, rfl, rfl⟩
        · cases h
      | writeStatus v =>
        cases h
        exact .inr ⟨rfl, _, rest, rfl, .inr (.inr (.inr (.inr (.inl ⟨v, rfl, rfl⟩))))⟩
      | writeOut i v => cases h
      | writeRes v => cases h
      | readCmd => cases h
      | reset =>
        cases h
        exact .inl ⟨rest, .inl rfl, rfl⟩
      | resetDuring w =>
        cases h
        exact .inl ⟨rest, .inr ⟨w, rfl⟩, rfl⟩
      | readBuf i =>
        refine .inr ⟨rfl, _, rest, rfl, .inr (.inr (.inr (.inr (.inr ?_))))⟩
        simp only [serve, hostReadBuf, answerRead] at h
        split at h <;> cases h
        exact ⟨_, rfl⟩
      | readArg i =>
        refine .inr ⟨rfl, _, rest, rfl, .inr (.inr (.inr (.inr (.inr ?_))))⟩
        simp only [serve, answerRead] at h
        split at h <;> cases h
        exact ⟨_, rfl⟩
      | readOut i =>
        refine .inr ⟨rfl, _, rest, rfl, .inr (.inr (.inr (.inr (.inr ?_))))⟩
        simp only [serve, answerRead] at h
        split at h <;> cases h
        exact ⟨_, rfl⟩
      | readRes =>
        cases h
        exact .inr ⟨rfl, _, rest, rfl, .inr (.inr (.inr (.inr (.inr ⟨_, rfl⟩))))⟩
      | readStatus =>
        cases h
        exact .inr ⟨rfl, _, rest, rfl, .inr (.inr (.inr (.inr (.inr ⟨_, rfl⟩))))⟩

end Machine
end Sys2Proof
end

