-- ==== Sys2Proof/Laws/PerInstr.lean ====
section
/-! SUPPORT. The family OpcodeRow: every instruction's word has its row's pattern (R46, R50): the operation code in OP, RSV
0, whatever LEN, CK and NB are. -/

namespace Sys2Proof
namespace Laws
namespace OpcodeRow

/-- The word of i, masked as R50 masks it, is its operation code. -/
def Statement (i : Instr) : Prop := encode i &&& 0xFFFC00FF#32 = i.opcode.setWidth 32

theorem crc7 (len : Nat) (ck nb : Bool) : Statement (.crc7 len ck nb) := wordOf_and_mask _ _ _ _

theorem makeA (len : Nat) (ck nb : Bool) : Statement (.makeA len ck nb) := wordOf_and_mask _ _ _ _

theorem makeP (len : Nat) (ck nb : Bool) : Statement (.makeP len ck nb) := wordOf_and_mask _ _ _ _

theorem makeR (len : Nat) (ck nb : Bool) : Statement (.makeR len ck nb) := wordOf_and_mask _ _ _ _

theorem encA (len : Nat) (ck nb : Bool) : Statement (.encA len ck nb) := wordOf_and_mask _ _ _ _

theorem encP (len : Nat) (ck nb : Bool) : Statement (.encP len ck nb) := wordOf_and_mask _ _ _ _

theorem encR (len : Nat) (ck nb : Bool) : Statement (.encR len ck nb) := wordOf_and_mask _ _ _ _

theorem decA (len : Nat) (ck nb : Bool) : Statement (.decA len ck nb) := wordOf_and_mask _ _ _ _

theorem decP (len : Nat) (ck nb : Bool) : Statement (.decP len ck nb) := wordOf_and_mask _ _ _ _

theorem decR (len : Nat) (ck nb : Bool) : Statement (.decR len ck nb) := wordOf_and_mask _ _ _ _

theorem validA (len : Nat) (ck nb : Bool) : Statement (.validA len ck nb) := wordOf_and_mask _ _ _ _

theorem validP (len : Nat) (ck nb : Bool) : Statement (.validP len ck nb) := wordOf_and_mask _ _ _ _

theorem validR (len : Nat) (ck nb : Bool) : Statement (.validR len ck nb) := wordOf_and_mask _ _ _ _

theorem gethcA (len : Nat) (ck nb : Bool) : Statement (.gethcA len ck nb) := wordOf_and_mask _ _ _ _

theorem gethcP (len : Nat) (ck nb : Bool) : Statement (.gethcP len ck nb) := wordOf_and_mask _ _ _ _

theorem gethcR (len : Nat) (ck nb : Bool) : Statement (.gethcR len ck nb) := wordOf_and_mask _ _ _ _

theorem getfP (len : Nat) (ck nb : Bool) : Statement (.getfP len ck nb) := wordOf_and_mask _ _ _ _

theorem getfR (len : Nat) (ck nb : Bool) : Statement (.getfR len ck nb) := wordOf_and_mask _ _ _ _

end OpcodeRow
end Laws
end Sys2Proof
end

