-- ==== Sys2Proof/Tests/Slice0.lean ====
section
/-! SUPPORT. Small tests with values from the spec (95_test_vectors.md, and the words of 30_encoding.md written out bit by
bit), and for each statement with hypotheses a concrete case that meets them. -/

namespace Sys2Proof
namespace Tests

open Sys2Proof.Machine

set_option maxRecDepth 100000

/-! ### Helpers -/

/-- BUF with the bytes f from address i on. -/
def cells (i : Nat) : List Byte → Memory
  | [] => []
  | v :: vs => (i, v) :: cells (i + 1) vs

/-- The reset state with f in BUF. -/
def withFrame (f : List Byte) : State := { State.reset with buf := cells 0 f }

/-- The reset state with bs in ARG. -/
def withArg (bs : List Byte) : State := { State.reset with arg := Vector.ofFn fun i => bs.getD i 0 }

/-- Whether r goes on, to a state with p. -/
def answers (r : Result) (p : State → Bool) : Bool :=
  match r with
  | .next t => p t
  | .fault _ => false
  | .refused _ => false

/-- The fault of r. -/
def faultOf (r : Result) : Option Fault :=
  match r with
  | .fault f => some f
  | .next _ => none
  | .refused _ => none

/-- BUF[0..7]. -/
def bufBytes (s : State) : List (Option Byte) := (List.range 8).map (Memory.read s.buf)

theorem answers_elim {r : Result} {p : State → Bool} (h : answers r p = true) : ∃ t, r = .next t ∧ p t = true := by
  cases r with
  | next t => exact ⟨t, rfl, h⟩
  | fault f => cases h
  | refused f => cases h

/-- Frames of 95_test_vectors.md (T-DEC-1, T-DEC-12, T-DEC-23). -/
def frameA : List Byte := [0x21, 0x0A, 0x15, 0x01, 0x01, 0x01, 0x01, 0x37]
def frameP : List Byte := [0x3F, 0x01, 0x02, 0x33, 0xA2, 0x01, 0x01, 0x45]
def frameR : List Byte := [0x2A, 0x05, 0x06, 0x5A, 0x65, 0x97, 0xBE, 0x42]

/-- A buffer of eight bytes AA (the start of T-ENC-1 to T-ENC-17). -/
def frameAA : List Byte := List.replicate 8 0xAA

/-- The instances of T-ENC-1, T-ENC-10 and T-ENC-14, over a buffer of AA. -/
def made : State :=
  { withFrame frameAA with
    instAs := #v[{ hc1 := 0x0A, hc2 := 0x15 }]
    instPs := #v[{ hc1 := 0x01, hc2 := 0x02, rp := 50, lc := 2, lt := 8, lf := 2 }]
    instRs := #v[{ hc1 := 0x05, hc2 := 0x06, rh := 25, tp := 100, tr := 150, al := 31, s := true, w := false, sy := true }] }

/-- s with f in BUF. -/
def put (f : List Byte) (s : State) : State := { s with buf := cells 0 f }

/-- s with the accesses p pending. -/
def host (p : List HostAccess) (s : State) : State := { s with port := p }

/-- R7's parameters with both checks on (T-DEC-S1 to T-DEC-S4). -/
def strict : Params := { crcPoly := 0x37, crcZeroAlt := 0x80, alertCheckAllRes := true, pacCheckRes2 := true }

/-! ### WellFormed refuses a LEN of more than 8 bits (R31, R45) -/

theorem test_wf_crc7 : ¬ (Instr.crc7 256 false false).WellFormed := by decide
theorem test_wf_make : ¬ (Instr.makeA 256 false false).WellFormed := by decide
theorem test_wf_enc : ¬ (Instr.encP 300 true false).WellFormed := by decide
theorem test_wf_dec : ¬ (Instr.decR 4096 false true).WellFormed := by decide
theorem test_wf_accepts_255 : (Instr.decR 255 true true).WellFormed := by decide

/-! ### Decoding: RSV(14) NB(1) CK(1) LEN(8) OP(8) (R45, R46), one word for every command -/

theorem test_decode_crc7 : decode (0b00000000000000#14 ++ 0b0#1 ++ 0b1#1 ++ 0b00000111#8 ++ 0b00000001#8) =
    .ok (.crc7 7 true false) := by decide
theorem test_decode_makeA : decode (0b00000000000000#14 ++ 0b1#1 ++ 0b0#1 ++ 0b10000000#8 ++ 0b00010000#8) =
    .ok (.makeA 128 false true) := by decide
theorem test_decode_makeP : decode (0b00000000000000#14 ++ 0b0#1 ++ 0b0#1 ++ 0b00000000#8 ++ 0b00010001#8) =
    .ok (.makeP 0 false false) := by decide
theorem test_decode_makeR : decode (0b00000000000000#14 ++ 0b0#1 ++ 0b0#1 ++ 0b00000001#8 ++ 0b00010010#8) =
    .ok (.makeR 1 false false) := by decide
theorem test_decode_encA : decode (0b00000000000000#14 ++ 0b0#1 ++ 0b1#1 ++ 0b00001000#8 ++ 0b00100000#8) =
    .ok (.encA 8 true false) := by decide
theorem test_decode_encP : decode (0b00000000000000#14 ++ 0b1#1 ++ 0b1#1 ++ 0b00001000#8 ++ 0b00100001#8) =
    .ok (.encP 8 true true) := by decide
theorem test_decode_encR : decode (0b00000000000000#14 ++ 0b0#1 ++ 0b0#1 ++ 0b00000111#8 ++ 0b00100010#8) =
    .ok (.encR 7 false false) := by decide
theorem test_decode_decA : decode (0b00000000000000#14 ++ 0b1#1 ++ 0b0#1 ++ 0b00001000#8 ++ 0b00110000#8) =
    .ok (.decA 8 false true) := by decide
theorem test_decode_decP : decode (0b00000000000000#14 ++ 0b0#1 ++ 0b0#1 ++ 0b01000001#8 ++ 0b00110001#8) =
    .ok (.decP 65 false false) := by decide
theorem test_decode_decR : decode (0b00000000000000#14 ++ 0b0#1 ++ 0b1#1 ++ 0b11111111#8 ++ 0b00110010#8) =
    .ok (.decR 255 true false) := by decide
theorem test_decode_validA : decode (0b00000000000000#14 ++ 0b1#1 ++ 0b1#1 ++ 0b11111111#8 ++ 0b01000000#8) =
    .ok (.validA 255 true true) := by decide
theorem test_decode_validP : decode (0b00000000000000#14 ++ 0b0#1 ++ 0b0#1 ++ 0b00000000#8 ++ 0b01000001#8) =
    .ok (.validP 0 false false) := by decide
theorem test_decode_validR : decode (0b00000000000000#14 ++ 0b0#1 ++ 0b0#1 ++ 0b00000010#8 ++ 0b01000010#8) =
    .ok (.validR 2 false false) := by decide
theorem test_decode_gethcA : decode (0b00000000000000#14 ++ 0b0#1 ++ 0b0#1 ++ 0b00000000#8 ++ 0b01010000#8) =
    .ok (.gethcA 0 false false) := by decide
theorem test_decode_gethcP : decode (0b00000000000000#14 ++ 0b0#1 ++ 0b1#1 ++ 0b00000000#8 ++ 0b01010001#8) =
    .ok (.gethcP 0 true false) := by decide
theorem test_decode_gethcR : decode (0b00000000000000#14 ++ 0b1#1 ++ 0b0#1 ++ 0b00000000#8 ++ 0b01010010#8) =
    .ok (.gethcR 0 false true) := by decide
theorem test_decode_getfP : decode (0b00000000000000#14 ++ 0b0#1 ++ 0b0#1 ++ 0b00010000#8 ++ 0b01100001#8) =
    .ok (.getfP 16 false false) := by decide
theorem test_decode_getfR : decode (0b00000000000000#14 ++ 0b0#1 ++ 0b0#1 ++ 0b00100000#8 ++ 0b01100010#8) =
    .ok (.getfR 32 false false) := by decide
/-- RSV's lowest bit, its highest bit, and the codes 0x60 and 0x13 (T-ILL-2 to T-ILL-5). -/
theorem test_decode_illegal :
    decode 0x00040701 = .error .reservedBits ∧ decode 0x80000021 = .error .reservedBits ∧
    decode 0x00000060 = .error .unassignedOp ∧ decode 0x00000013 = .error .unassignedOp := by decide
theorem test_encode_encP : encode (.encP 8 true false) = 0x00010821 := by decide
theorem test_encode_validA : encode (.validA 255 true true) = 0x0003FF40 := by decide
theorem test_decodeTableWord_decR : decodeTableWord 32 0x00000832 = some (.decR 8 false false) := by decide
theorem test_decodeTableWord_illegal : decodeTableWord 32 0x00000060 = none := by decide

/-! ### One step of each command, on the vectors of 95_test_vectors.md -/

/-- T-CRC-2 (a source fixture: 55). -/
theorem test_crc7_fixture : answers (exec (.crc7 7 false false) (withFrame frameA)) (·.res == 0x37) = true := by decide
/-- T-CRC-9: a zero register gives 0x80. -/
theorem test_crc7_zero_register :
    answers (exec (.crc7 7 false false) (withFrame [0x21, 0x00, 0x35, 1, 1, 1, 1])) (·.res == 0x80) = true := by decide
/-- T-MAKE-2. -/
theorem test_makeA_invalid :
    answers (exec (.makeA 0 false false) (withArg [0xFF, 0x00]))
      (fun t => t.res == 0x00 && t.instA == { hc1 := 0xFF, hc2 := 0x00 }) = true := by decide
/-- T-MAKE-4. -/
theorem test_makeA_valid :
    answers (exec (.makeA 0 false false) (withArg [0xFE, 0x63]))
      (fun t => t.res == 0x01 && t.instA == { hc1 := 0xFE, hc2 := 0x63 }) = true := by decide
/-- T-MAKE-5. -/
theorem test_makeP_low :
    answers (exec (.makeP 0 false false) (withArg [0x01, 0x02, 0x96, 0x05, 0x00, 0x00]))
      (fun t => t.res == 0x01 && t.instP == { hc1 := 0x01, hc2 := 0x02, rp := 100, lc := 1, lt := 1, lf := 1 }) = true := by
  decide
/-- T-MAKE-7. -/
theorem test_makeP_high :
    answers (exec (.makeP 0 false false) (withArg [0x01, 0x02, 0x65, 0x04, 0x10, 0x04]))
      (fun t => t.instP == { hc1 := 0x01, hc2 := 0x02, rp := 100, lc := 0, lt := 15, lf := 3 }) = true := by decide
/-- T-MAKE-11. -/
theorem test_makeR_clamps :
    answers (exec (.makeR 0 false false) (withArg [0x05, 0x06, 0x33, 0xC8, 0xFF, 0x00, 0x02, 0xFF, 0x00]))
      (fun t => t.instR ==
        { hc1 := 0x05, hc2 := 0x06, rh := 50, tp := 199, tr := 199, al := 1, s := true, w := true, sy := false }) = true := by
  decide
/-- T-MAKE-10. -/
theorem test_makeR_in_range :
    answers (exec (.makeR 0 false false) (withArg [0x05, 0x06, 0x19, 0x64, 0x96, 0x1F, 0x01, 0x00, 0x01]))
      (fun t => t.res == 0x01 && t.instR == made.instR) = true := by decide
/-- T-ENC-1. -/
theorem test_encA_crc :
    answers (exec (.encA 8 true false) made) (fun t => t.res == 0x08 && bufBytes t == frameA.map some) = true := by decide
/-- T-ENC-6: seven bytes are too few for a checksum. -/
theorem test_encA_short :
    answers (exec (.encA 7 true false) made) (fun t => t.res == 0x00 && bufBytes t == frameAA.map some) = true := by decide
/-- T-ENC-10. -/
theorem test_encP_crc :
    answers (exec (.encP 8 true false) made) (fun t => t.res == 0x08 && bufBytes t == frameP.map some) = true := by decide
/-- R90, R91: LEN = 7 without a checksum writes seven bytes. -/
theorem test_encP_payload :
    answers (exec (.encP 7 false false) made)
      (fun t => t.res == 0x07 && bufBytes t == [0x3F, 0x01, 0x02, 0x33, 0xA2, 0x01, 0x01, 0xAA].map some) = true := by decide
/-- T-ENC-14. -/
theorem test_encR_crc :
    answers (exec (.encR 8 true false) made) (fun t => t.res == 0x08 && bufBytes t == frameR.map some) = true := by decide
/-- T-ENC-17, on the reset fields. -/
theorem test_encR_payload :
    answers (exec (.encR 7 false false) (withFrame frameAA))
      (fun t => t.res == 0x07 && bufBytes t == [0x2A, 0xFF, 0xFF, 0x01, 0x01, 0x01, 0x02, 0xAA].map some) = true := by decide
/-- T-DEC-1. -/
theorem test_decA_accepts :
    answers (exec (.decA 8 false false) (withFrame frameA))
      (fun t => t.res == 0x08 && t.instA == { hc1 := 0x0A, hc2 := 0x15 }) = true := by decide
/-- T-DEC-S1: with every reserved byte checked, a second reserved byte of 2 is rejected. -/
theorem test_decA_strict :
    answers (decodeAlert strict 8 false (withFrame [0x21, 0x0A, 0x15, 0x01, 0x02, 0x01, 0x01, 0x64]))
      (fun t => t.res == 0x00 && t.instA == { hc1 := 0xFF, hc2 := 0xFF }) = true := by decide
/-- T-DEC-12. -/
theorem test_decP_accepts :
    answers (exec (.decP 8 false false) (withFrame frameP)) (fun t => t.res == 0x08 && t.instP == made.instP) = true := by
  decide
/-- T-DEC-15: rp stored as 102; the other fields are kept. -/
theorem test_decP_rejects :
    answers (exec (.decP 8 false false) (put [0x3F, 0x01, 0x02, 0x66, 0xA2, 0x01, 0x01, 0x40] made))
      (fun t => t.res == 0x00 && t.instP == { made.instP with hc1 := 0xFF, hc2 := 0xFF }) = true := by decide
/-- T-DEC-26. -/
theorem test_decR_accepts :
    answers (exec (.decR 8 false false) (withFrame [0x2A, 0x05, 0x06, 0xF3, 0x65, 0x97, 0xBE, 0x0A]))
      (fun t => t.res == 0x08 && t.instR == { made.instR with rh := 50, w := true }) = true := by decide
/-- T-DEC-32: al = 63. -/
theorem test_decR_rejects :
    answers (exec (.decR 8 false false) (withFrame [0x2A, 0x05, 0x06, 0x5A, 0x65, 0x97, 0x7E, 0x55]))
      (fun t => t.res == 0x00) = true := by decide
/-- T-Q-1. -/
theorem test_validA_reset : answers (exec (.validA 0 false false) State.reset) (·.res == 0x00) = true := by decide
/-- R80: (0x01, 0x02) is valid. -/
theorem test_validP_made : answers (exec (.validP 0 false false) made) (·.res == 0x01) = true := by decide
/-- T-Q-6: the second byte alone makes it invalid. -/
theorem test_validR_second_byte :
    answers (exec (.validR 0 false false) { State.reset with instRs := #v[{ State.reset.instR with hc1 := 0x05 }] })
      (·.res == 0x00) = true := by decide
/-- R81's example. -/
theorem test_gethcA :
    answers (exec (.gethcA 0 false false) made) (fun t => t.out.toList == [0x0A, 0x15, 0, 0, 0, 0, 0, 0, 0]) = true := by
  decide
/-- T-Q-2. -/
theorem test_gethcP_reset :
    answers (exec (.gethcP 0 false false) State.reset)
      (fun t => t.res == 0x02 && t.out.toList == [0xFF, 0xFF, 0, 0, 0, 0, 0, 0, 0]) = true := by decide
/-- T-Q-9. -/
theorem test_gethcR :
    answers (exec (.gethcR 0 false false) made) (fun t => t.out.toList == [0x05, 0x06, 0, 0, 0, 0, 0, 0, 0]) = true := by
  decide
/-- T-Q-3. -/
theorem test_getfP_reset :
    answers (exec (.getfP 0 false false) State.reset)
      (fun t => t.res == 0x04 && t.out.toList == [0, 0, 1, 1, 0, 0, 0, 0, 0]) = true := by decide
/-- T-Q-8. -/
theorem test_getfR :
    answers (exec (.getfR 0 false false) made)
      (fun t => t.res == 0x07 && t.out.toList == [0x19, 0x64, 0x96, 0x1F, 1, 0, 1, 0, 0]) = true := by decide

/-! ### One step of the machine -/

/-- T-ILL-1, through withFetchWord: nothing but STATUS changes. -/
theorem test_step_illegal :
    answers (step (State.reset.withFetchWord 32 0)) (· == { State.reset with status := 0x01 }) = true := by decide
theorem test_step_fetches_the_word :
    answers (step (State.reset.withFetchWord 32 0x00000062)) (fun t => t.res == 0x07 && t.port == []) = true := by decide
theorem test_step_unspecified_byte :
    faultOf (step (host [.readBuf 3] (withFrame [0x21, 0x0A, 0x15]))) = some (.unspecifiedByte 3) := by decide
theorem test_step_wbuf :
    answers (step (host (wbuf 4 [0x64, 0x65]) (withFrame frameR)))
      (fun t => t.buf == cells 0 [0x2A, 0x05, 0x06, 0x5A, 0x64, 0x97, 0xBE, 0x42] && t.port == [.writeBuf 5 0x65]) = true := by
  decide
theorem test_assemble : assemble .encP [.len 8, .crc] = .encP 8 true false ∧
    assemble .makeP [] = .makeP 0 false false ∧ assemble .decA [.nobuf, .len 0xFF] = .decA 255 false true := by decide

/-! ### Witnesses: the hypotheses of every statement that has some can be met, clause by clause -/

/-- The bytes of a frame, as the statements name them. -/
def byteOf (f : List Byte) (i : Nat) : Byte := f.getD i 0

/-- Frames whose house code is invalid on the wire (R106). -/
def wireA : List Byte := [0x21, 0xFF, 0x15, 0x01, 0x01, 0x01, 0x01, 0x6B]
def wireP : List Byte := [0x3F, 0x01, 0xFF, 0x33, 0xA2, 0x01, 0x01, 0x0A]
def wireR : List Byte := [0x2A, 0xFF, 0x06, 0x5A, 0x65, 0x97, 0xBE, 0x1D]

/-- An executed command, with a fact about the state it answers. -/
theorem witness_elim {r : Result} {P : State → Prop} [DecidablePred P] (h : answers r (fun t => decide (P t)) = true) :
    ∃ t, r = .next t ∧ P t := by
  obtain ⟨t, ht, hp⟩ := answers_elim h
  exact ⟨t, ht, of_decide_eq_true hp⟩

theorem witness_DecodeOfEncode : (Instr.decP 255 true true).WellFormed ∧ (Instr.crc7 0 false false).WellFormed := by decide

theorem witness_EncodeOfDecode : decode 0x0003FF62 = .ok (.getfR 255 true true) := by decide

theorem witness_RowsDecodeByMask :
    ((0x01 : CmdWord), Instr.crc7) ∈ opcodeRows ∧ (0x0003FF01 : CmdWord) &&& 0xFFFC00FF = 0x01 ∧
    ((0x62 : CmdWord), Instr.getfR) ∈ opcodeRows ∧ (0x00000062 : CmdWord) &&& 0xFFFC00FF = 0x62 ∧
    ∀ row ∈ opcodeRows, (0x00040701 : CmdWord) &&& 0xFFFC00FF ≠ row.1 :=
  ⟨by simp [opcodeRows], by decide, by simp [opcodeRows], by decide, by decide⟩

theorem witness_IgnoredFieldsHaveNoEffect :
    Instr.makeA ∈ [Instr.makeA, .makeP, .makeR, .validA, .validP, .validR, .gethcA, .gethcP, .gethcR, .getfP, .getfR] ∧
    Instr.decR ∈ [Instr.crc7, .decA, .decP, .decR] := by simp

theorem witness_StepRunsDecodedCommand :
    (∃ s : State, s.resetDone = true ∧ s.port = .command 0x00010821 :: [.readRes] ∧
      decode 0x00010821 = .ok (.encP 8 true false) ∧ (Instr.encP 8 true false).WellFormed) ∧
    ∃ s : State, s.resetDone = true ∧ s.port = .command 0x00040701 :: [] ∧ IllegalWord 0x00040701 :=
  ⟨⟨host [.command 0x00010821, .readRes] made, rfl, rfl, by decide, by decide⟩,
    ⟨host [.command 0x00040701] State.reset, rfl, rfl, .inl (by decide)⟩⟩

theorem witness_IllegalWordSetsIll :
    IllegalWord 0x00040000 ∧ IllegalWord 0x00000060 ∧
    ∃ t, exec (.validA 0 false false) State.reset = .next t ∧ t.res = 0x00 :=
  ⟨.inl (by decide), .inr (by decide), witness_elim (by decide)⟩

theorem witness_IdleChangesNothing : State.reset.port = [] := by decide

theorem witness_Crc7Result :
    (false = true ∨ 6 < 7) ∧ HasBytes (withFrame frameA).buf 7 (byteOf frameA) ∧ 7 ≤ 7 ∧
    HasBytes (withFrame [0, 1, 1, 1, 1, 1, 1]).buf 7 (byteOf [0, 1, 1, 1, 1, 1, 1]) ∧
    ¬ Specified 7 (withFrame [0x21, 1, 1, 1, 1, 1]).buf := by
  unfold HasBytes; decide

theorem witness_Crc7ResultRange :
    (∃ t, exec (.crc7 7 false false) (withFrame [0, 1, 1, 1, 1, 1, 1]) = .next t ∧
      Memory.read (withFrame [0, 1, 1, 1, 1, 1, 1]).buf 0 = some 0x00) ∧
    (∃ t, exec (.crc7 6 false false) State.reset = .next t ∧ 6 < 7) ∧
    (∃ t, exec (.crc7 7 false false) (withFrame frameA) = .next t ∧
      Memory.read (withFrame frameA).buf 0 ≠ some 0x00) :=
  ⟨witness_elim (by decide), witness_elim (by decide), witness_elim (by decide)⟩

theorem witness_SeedTopBitHasNoEffect : ∃ b : Payload, b.b0 ≠ 0x00 ∧ b.b0 ≠ 0x80 :=
  ⟨payloadOf (byteOf frameA), by decide⟩

theorem witness_ChecksumDetectsThreeBitErrors :
    byteOf frameA 0 ≠ 0x00 ∧ byteOf frameA 7 = checksumOf (byteOf frameA) ∧
    ErrorPattern 1 [(1, 0), (4, 3), (7, 7)] ∧ ErrorPattern 1 [(7, 0)] := by
  unfold ErrorPattern; decide

theorem witness_DecodeRejectsThreeBitErrors :
    (HasBytes (withFrame frameA).buf 8 (byteOf frameA) ∧ ErrorPattern 0 [(0, 7), (1, 0), (7, 7)] ∧
      HasBytes (withFrame [0xA1, 0x0B, 0x15, 1, 1, 1, 1, 0xB7]).buf 8
        (flipBits (byteOf frameA) [(0, 7), (1, 0), (7, 7)]) ∧
      ∃ t, exec (.decA 8 false false) (withFrame frameA) = .next t ∧ t.res = 0x08) ∧
    (HasBytes (withFrame frameP).buf 8 (byteOf frameP) ∧
      HasBytes (withFrame [0x3F, 0x01, 0x02, 0x33, 0xA2, 0x01, 0x01, 0x44]).buf 8 (flipBits (byteOf frameP) [(7, 0)]) ∧
      ∃ t, exec (.decP 8 false false) (withFrame frameP) = .next t ∧ t.res = 0x08) ∧
    (HasBytes (withFrame frameR).buf 8 (byteOf frameR) ∧
      HasBytes (withFrame [0x2A, 0x05, 0x06, 0x5A, 0x64, 0x97, 0xBE, 0x42]).buf 8 (flipBits (byteOf frameR) [(4, 0)]) ∧
      ∃ t, exec (.decR 8 false false) (withFrame frameR) = .next t ∧ t.res = 0x08) := by
  refine ⟨⟨?_, ?_, ?_, witness_elim ?_⟩, ⟨?_, ?_, witness_elim ?_⟩, ⟨?_, ?_, witness_elim ?_⟩⟩ <;>
    first
      | (unfold HasBytes; decide)
      | (unfold ErrorPattern; decide)
      | decide

theorem witness_GetHouseCodeResult :
    ∃ (i : Instr) (hc1 hc2 : Byte), i = .gethcP 0 false false ∧ hc1 = made.instP.hc1 ∧ hc2 = made.instP.hc2 :=
  ⟨_, _, _, rfl, rfl, rfl⟩

theorem witness_EncodeAlertResult :
    (true = true ∧ 7 < 8) ∧ (false = false ∧ 7 ≤ 7 ∧ (false = true → 8 ≤ 7)) ∧ (false = false ∧ 7 ≤ 8 ∧ (true = true → 8 ≤ 8)) := by
  decide

theorem witness_EncodePollCmdResult :
    (6 < 7) ∧ (false = false ∧ 7 ≤ 7 ∧ (false = true → 8 ≤ 7)) ∧ (false = false ∧ 7 ≤ 255 ∧ (true = true → 8 ≤ 255)) := by
  decide

theorem witness_EncodePollRespResult :
    (true = true) ∧ (false = false ∧ 7 ≤ 7 ∧ (false = true → 8 ≤ 7)) ∧ (false = false ∧ 7 ≤ 8 ∧ (true = true → 8 ≤ 8)) := by
  decide

theorem witness_EncodeIgnoresPriorBuf :
    Instr.encR ∈ [Instr.encA, .encP, .encR] ∧ ∃ t, exec (.encR 7 false false) State.reset = .next t ∧ t.res = 0x07 :=
  ⟨by simp, witness_elim (by decide)⟩

theorem witness_WhiteningOfEncodedFrames :
    made.FieldsLegal ∧
    (∃ t, exec (.encA 8 true false) made = .next t ∧ t.res ≠ 0x00 ∧ Memory.read t.buf 7 = some 0x37) ∧
    (∃ t, exec (.encP 7 false false) made = .next t ∧ t.res ≠ 0x00 ∧ Memory.read t.buf 4 = some 0xA2) ∧
    (∃ t, exec (.encR 8 true false) made = .next t ∧ t.res ≠ 0x00 ∧ Memory.read t.buf 6 = some 0xBE) :=
  ⟨by decide, witness_elim (by decide), witness_elim (by decide), witness_elim (by decide)⟩

theorem witness_DecodeAlertResult :
    (7 < 8) ∧ HasBytes (withFrame frameA).buf 8 (byteOf frameA) ∧ AlertFrameOk (byteOf frameA) ∧
    HasBytes (withFrame frameP).buf 8 (byteOf frameP) ∧ ¬ AlertFrameOk (byteOf frameP) ∧
    ¬ Specified 8 (withFrame [0x21, 1, 1, 1, 1, 1, 1]).buf := by
  unfold HasBytes AlertFrameOk; decide

theorem witness_DecodePollCmdResult :
    (7 < 8) ∧ HasBytes (withFrame frameP).buf 8 (byteOf frameP) ∧ PollCmdFrameOk (byteOf frameP) ∧
    HasBytes (withFrame frameR).buf 8 (byteOf frameR) ∧ ¬ PollCmdFrameOk (byteOf frameR) ∧
    ¬ Specified 8 (withFrame [0x3F, 1, 1, 1, 1, 1, 1]).buf :=
  ⟨by decide, by unfold HasBytes; decide,
    ⟨by decide, by decide, by decide, by decide, by decide, by decide, fun _ => by decide, by decide⟩,
    by unfold HasBytes; decide, fun h => absurd h.1 (by decide), by decide⟩

theorem witness_DecodePollRespResult :
    (7 < 8) ∧ HasBytes (withFrame frameR).buf 8 (byteOf frameR) ∧ PollRespFrameOk (byteOf frameR) ∧
    HasBytes (withFrame frameA).buf 8 (byteOf frameA) ∧ ¬ PollRespFrameOk (byteOf frameA) ∧
    ¬ Specified 8 (withFrame [0x2A, 1, 1, 1, 1, 1, 1]).buf := by
  unfold HasBytes PollRespFrameOk; decide

theorem witness_FailedDecodeState :
    (∃ t, exec (.decA 7 false false) made = .next t ∧ t.res ≠ 0x08) ∧
    (∃ t, exec (.decP 8 false false) made = .next t ∧ t.res ≠ 0x08) ∧
    (∃ t, exec (.decR 8 false true) State.reset = .next t ∧ t.res ≠ 0x08) :=
  ⟨witness_elim (by decide), witness_elim (by decide), witness_elim (by decide)⟩

/-- T-DEC-10 for the Alert: 0xFF on the wire. -/
theorem witness_AcceptedFrameAssignsHouseCode :
    (HasBytes (withFrame [0x21, 0xFF, 0x15, 1, 1, 1, 1, 0x6B]).buf 8 (byteOf [0x21, 0xFF, 0x15, 1, 1, 1, 1, 0x6B]) ∧
      ∃ t, exec (.decA 8 false false) (withFrame [0x21, 0xFF, 0x15, 1, 1, 1, 1, 0x6B]) = .next t ∧ t.res = 0x08) ∧
    (HasBytes (withFrame frameP).buf 8 (byteOf frameP) ∧
      ∃ t, exec (.decP 8 false false) (withFrame frameP) = .next t ∧ t.res = 0x08) ∧
    (HasBytes (withFrame frameR).buf 8 (byteOf frameR) ∧
      ∃ t, exec (.decR 255 false false) (withFrame frameR) = .next t ∧ t.res = 0x08) := by
  refine ⟨⟨?_, witness_elim ?_⟩, ⟨?_, witness_elim ?_⟩, ⟨?_, witness_elim ?_⟩⟩ <;>
    first
      | (unfold HasBytes; decide)
      | decide

/-- T-DEC-10, and the frames T-DEC-12 and T-DEC-23 with 0xFF in byte 2 and byte 1. -/
theorem witness_WireHouseCodeOf0xFFIsAccepted :
    8 ≤ 8 ∧
    (HasBytes (withFrame wireA).buf 8 (byteOf wireA) ∧ byteOf wireA 1 = 0xFF ∧ AlertFrameOk (byteOf wireA)) ∧
    (HasBytes (withFrame wireP).buf 8 (byteOf wireP) ∧ byteOf wireP 2 = 0xFF ∧ PollCmdFrameOk (byteOf wireP)) ∧
    (HasBytes (withFrame wireR).buf 8 (byteOf wireR) ∧ byteOf wireR 1 = 0xFF ∧ PollRespFrameOk (byteOf wireR)) :=
  ⟨by decide, ⟨by unfold HasBytes; decide, by decide, by unfold AlertFrameOk; decide⟩,
    ⟨by unfold HasBytes; decide, by decide,
      ⟨by decide, by decide, by decide, by decide, by decide, by decide, fun _ => by decide, by decide⟩⟩,
    ⟨by unfold HasBytes; decide, by decide, by unfold PollRespFrameOk; decide⟩⟩

theorem witness_DecodeTotality :
    Instr.decR ∈ [Instr.decA, .decP, .decR] ∧ Specified 8 (withFrame frameR).buf ∧ 7 < 8 ∧
    ¬ Specified 8 (withFrame [0x2A, 1, 1, 1, 1, 1, 1]).buf :=
  ⟨by simp, by decide, by decide, by decide⟩

theorem witness_PollCmdRoundTrip :
    made.instP.Legal ∧
    PollCmd.Legal { hc1 := 0xFF, hc2 := 0x00, rp := 100, lc := 3, lt := 15, lf := 3 } ∧ State.reset.instP.Legal := by decide

theorem witness_PollRespRoundTrip :
    made.instR.Legal ∧ State.reset.instR.Legal ∧
    PollResp.Legal
      { hc1 := 0, hc2 := 0, rh := 50, tp := 199, tr := 199, al := 62, s := true, w := true, sy := true } := by decide

theorem witness_StepKeepsInvariant :
    (host [.command 0x00010822] made).Inv ∧ ∃ t, step (host [.command 0x00010822] made) = .next t ∧ t.res = 0x08 :=
  ⟨by decide, witness_elim (by decide)⟩

theorem witness_WritersOfRegisterFiles :
    ∃ t, exec (.encR 8 true false) made = .next t ∧ (Instr.encR 8 true false).opcode ∉ [0x12, 0x32] :=
  witness_elim (by decide)

theorem witness_ReadersOfRegisterFiles :
    ∃ t, exec (.decR 8 false false) (withFrame frameR) = .next t ∧ (Instr.decR 8 false false).opcode ∉ [0x10, 0x11, 0x12] :=
  witness_elim (by decide)

theorem witness_CommandsStopOnlyOnUnspecifiedBytes :
    Specified (bytesRead (.decA 8 false false)) (withFrame frameA).buf ∧
    Specified (bytesRead (.decA 7 false false)) State.reset.buf ∧
    ¬ Specified (bytesRead (.crc7 7 false false)) (withFrame [0x21, 1, 1, 1, 1, 1]).buf := by decide

theorem witness_PreparedAccessIsSafe :
    (∃ rest, (host [.command 0x00000701] (withFrame frameA)).port = .command 0x00000701 :: rest) ∧
    AccessReady (host [.command 0x00000701] (withFrame frameA)) (.command 0x00000701) ∧
    AccessReady (withFrame frameA) (.readBuf 7) ∧ AccessReady State.reset (.writeArg 8 0xFF) :=
  ⟨⟨_, rfl⟩,
    ⟨rfl, fun i hi => by
      have h : decode 0x00000701 = .ok (.crc7 7 false false) := by decide
      rw [h] at hi
      cases hi
      decide⟩,
    ⟨rfl, by decide, by decide⟩, ⟨rfl, by decide⟩⟩

theorem witness_CommandsAreIdempotent :
    Memory.wf made.buf ∧ ∃ t, exec (.encA 8 true false) made = .next t ∧ t.res = 0x08 :=
  ⟨by decide, witness_elim (by decide)⟩

theorem witness_FailureChangesOnlyRes :
    Instr.crc7 ∈ [Instr.crc7, .encA, .encP, .encR] ∧
    (∃ t, exec (.crc7 7 false false) (withFrame [0, 1, 1, 1, 1, 1, 1]) = .next t ∧ t.res = 0x00) ∧
    ∃ t, exec (.encP 7 true false) made = .next t ∧ t.res = 0x00 :=
  ⟨by simp, witness_elim (by decide), witness_elim (by decide)⟩

theorem witness_DeclaredLengthSaturates :
    Instr.encP ∈ [Instr.crc7, .encA, .encP, .encR, .decA, .decP, .decR] ∧ 8 ≤ 255 := ⟨by simp, by decide⟩

theorem witness_AbsentBufferFails :
    Instr.decR ∈ [Instr.crc7, .encA, .encP, .encR, .decA, .decP, .decR] := by simp

theorem witness_StatusRegisterRules :
    (∃ t, step (host [.reset] { State.reset with status := 0x01 }) = .next t ∧
      State.ill { State.reset with status := 0x01 } = true) ∧
    (∃ t, step (host [.command 0] State.reset) = .next t ∧ State.reset.ill = false ∧ t.ill = true) ∧
    (host [.readStatus] State.reset).resetDone = true ∧ (host [.readStatus] State.reset).port = .readStatus :: [] ∧
    (host [.writeStatus 0xFF] State.reset).port = .writeStatus 0xFF :: [] :=
  ⟨witness_elim (by decide), witness_elim (by decide), rfl, rfl, rfl⟩

theorem witness_HostAccessesOfBufArgOutRes :
    State.reset.resetDone = true ∧ (host [.writeBuf 7 0xFF] State.reset).port = .writeBuf 7 0xFF :: [] ∧
    (host [.writeArg 8 0xFF] State.reset).port = .writeArg (8 : Fin 9) 0xFF :: [] ∧
    Memory.read (host [.readBuf 0] (withFrame frameA)).buf 0 = some 0x21 ∧
    (host [.readArg 0] State.reset).port = .readArg (0 : Fin 9) :: [] ∧
    (host [.readOut 8] State.reset).port = .readOut (8 : Fin 9) :: [] ∧
    (host [.readRes] State.reset).port = .readRes :: [] := by decide

theorem witness_HostAccessesThatStop :
    (host [.readBuf 7] State.reset).resetDone = true ∧ Memory.read (host [.readBuf 7] State.reset).buf 7 = none ∧
    (host [.writeBuf 8 0] State.reset).port = .writeBuf 8 0 :: [] ∧ 8 ≤ 8 ∧
    (host [.readOut 9] State.reset).port = .readOut 9 :: [] ∧ 9 ≤ 9 ∧
    (host [.readCmd] State.reset).port = .readCmd :: [] ∧
    (host [.writeOut 0 1] State.reset).port = .writeOut 0 1 :: [] ∧
    (host [.writeRes 1] State.reset).port = .writeRes 1 :: [] := by decide

theorem witness_ReadSeesLastWrite :
    (host [.writeBuf 0 0x21, .readBuf 0] State.reset).port = .writeBuf 0 0x21 :: .readBuf 0 :: [] ∧
    (host [.writeBuf 7 0x21, .readBuf 0] made).port = .writeBuf 7 0x21 :: .readBuf 0 :: [] ∧
    Memory.read (host [.writeBuf 7 0x21, .readBuf 0] made).buf 0 = some 0xAA ∧ State.reset.resetDone = true := by
  decide

theorem witness_ResetValues :
    (withArg [0xFF, 0xFF]).arg[0] = 0xFF ∧ (withArg [0xFF, 0xFF]).arg[1] = 0xFF ∧
    (∀ k : Fin 9, 2 ≤ k.val → (withArg [0xFF, 0xFF]).arg[k] = 0x00) ∧
    (∃ t, exec (.makeA 0 false false) (withArg [0xFF, 0xFF]) = .next t ∧ t.res = 0x00) ∧
    (∃ t, exec (.makeP 0 false false) (withArg [0xFF, 0xFF]) = .next t ∧ t.res = 0x00) ∧
    (∃ t, exec (.makeR 0 false false) (withArg [0xFF, 0xFF]) = .next t ∧ t.res = 0x00) :=
  ⟨by decide, by decide, by decide, witness_elim (by decide),
    witness_elim (by decide), witness_elim (by decide)⟩

theorem witness_ResetRestoresEverything :
    (host [.reset] made).port = .reset :: [] ∧
    ∃ w, (host [.resetDuring 0x00000831] made).port = .resetDuring w :: [] := ⟨rfl, _, rfl⟩

theorem witness_NothingRunsBeforeReset :
    ∃ (s : State) (a : HostAccess), s.resetDone = false ∧ s.port = a :: [] ∧ a ≠ .reset ∧ ∀ w, a ≠ .resetDuring w :=
  ⟨{ host [.command 0x00000040] State.reset with resetDone := false }, .command 0x00000040, rfl, rfl, by decide,
    fun _ h => by cases h⟩

end Tests
end Sys2Proof
end

/-! PROOF. What a command does, as data: the registers it writes and the values it writes there, or the unspecified byte it
stops on. exec performs this datum (exec_eq_perform), so which files a command writes, which it reads and where it stops
(R21, R26, R28) are read off it once. -/

namespace Sys2Proof
namespace Machine

/-! ### Effects -/

/-- What a command that goes on writes: RES, and at most one register file beside it (R21, R26). -/
inductive Effect where
  | answer (v : Byte)
  | assignA (x : Alert) (v : Byte)
  | assignP (x : PollCmd) (v : Byte)
  | assignR (x : PollResp) (v : Byte)
  | store (m : Memory) (v : Byte)
  | output (vs : List Byte) (v : Byte)

/-- The state after an effect. -/
def Effect.apply : Effect → State → State
  | .answer v, s => s.setRes v
  | .assignA x v, s => (s.setInstA x).setRes v
  | .assignP x v, s => (s.setInstP x).setRes v
  | .assignR x v, s => (s.setInstR x).setRes v
  | .store m v, s => (s.setBuf m).setRes v
  | .output vs v, s => (s.setOut vs).setRes v

/-- The outcome of a command that has the effect r, or stops. -/
def perform (r : Except Fault Effect) (s : State) : Result :=
  match r with
  | .error f => .fault f
  | .ok e => .next (e.apply s)

/-- ENC.x writes RES only where R90 rejects it, and the frame otherwise (R91). -/
def encodeEffect (b : Payload) (len : Nat) (ck nb : Bool) (m : Memory) : Effect :=
  if encodeRejected len ck nb then .answer 0 else .store (encodedBuf Config.params b ck m) (if ck then 8 else 7)

/-- DEC.x assigns the message and answers 8, or the forced-invalid one and answers 0 (R102, R108). -/
def decodeEffect {α : Type} (assign : α → Byte → Effect) (forced : α) : Option α → Effect
  | none => assign forced 0
  | some x => assign x 8

/-- The common part of GETHC.x and GETF.x (R68). -/
def outputEffect (vs : List Byte) : Effect := .output vs (BitVec.ofNat 8 vs.length)

/-- The effect of a command, or the fault it stops with. -/
def effect (i : Instr) (s : State) : Except Fault Effect :=
  match i with
  | .crc7 len _ nb => (crc7 Config.params len nb s.buf).map .answer
  | .makeA _ _ _ => .ok (.assignA (alertOfArg s.arg) (flagByte (alertOfArg s.arg).valid))
  | .makeP _ _ _ => .ok (.assignP (pollCmdOfArg s.arg) (flagByte (pollCmdOfArg s.arg).valid))
  | .makeR _ _ _ => .ok (.assignR (pollRespOfArg s.arg) (flagByte (pollRespOfArg s.arg).valid))
  | .encA len ck nb => .ok (encodeEffect (packAlert s.instA) len ck nb s.buf)
  | .encP len ck nb => .ok (encodeEffect (packPollCmd s.instP) len ck nb s.buf)
  | .encR len ck nb => .ok (encodeEffect (packPollResp s.instR) len ck nb s.buf)
  | .decA len _ nb =>
    (decodeVerdict Config.params Config.typeAlert (unpackAlert Config.params) len nb s.buf).map
      (decodeEffect .assignA { s.instA with hc1 := Config.hcInvalid, hc2 := Config.hcInvalid })
  | .decP len _ nb =>
    (decodeVerdict Config.params Config.typePollCmd (unpackPollCmd Config.params) len nb s.buf).map
      (decodeEffect .assignP { s.instP with hc1 := Config.hcInvalid, hc2 := Config.hcInvalid })
  | .decR len _ nb =>
    (decodeVerdict Config.params Config.typePollResp unpackPollResp len nb s.buf).map
      (decodeEffect .assignR { s.instR with hc1 := Config.hcInvalid, hc2 := Config.hcInvalid })
  | .validA _ _ _ => .ok (.answer (flagByte s.instA.valid))
  | .validP _ _ _ => .ok (.answer (flagByte s.instP.valid))
  | .validR _ _ _ => .ok (.answer (flagByte s.instR.valid))
  | .gethcA _ _ _ => .ok (outputEffect [s.instA.hc1, s.instA.hc2])
  | .gethcP _ _ _ => .ok (outputEffect [s.instP.hc1, s.instP.hc2])
  | .gethcR _ _ _ => .ok (outputEffect [s.instR.hc1, s.instR.hc2])
  | .getfP _ _ _ =>
    .ok (outputEffect [s.instP.rp.setWidth 8, s.instP.lc.setWidth 8, s.instP.lt.setWidth 8, s.instP.lf.setWidth 8])
  | .getfR _ _ _ =>
    .ok (outputEffect
      [s.instR.rh.setWidth 8, s.instR.tp, s.instR.tr, s.instR.al.setWidth 8, flagByte s.instR.s, flagByte s.instR.w,
        flagByte s.instR.sy])

/-! ### exec performs the effect -/

theorem crc7Command_eq_perform (p : Params) (len : Nat) (nb : Bool) (s : State) :
    crc7Command p len nb s = perform ((crc7 p len nb s.buf).map .answer) s := by
  unfold crc7Command
  cases crc7 p len nb s.buf <;> rfl

theorem encodeFrame_eq_perform (b : Payload) (len : Nat) (ck nb : Bool) (s : State) :
    encodeFrame Config.params b len ck nb s = perform (.ok (encodeEffect b len ck nb s.buf)) s := by
  rw [encodeFrame_eq, encodeEffect]
  split <;> rfl

/-- A DEC.x whose two assignments write one register performs decodeEffect. -/
theorem decodeFrame_eq_perform {α : Type} {p : Params} {ty : Byte} {unpack : Payload → Option α}
    {force : State → State} {assign : State → α → State} {write : α → Byte → Effect} {forced : α} {len : Nat} {nb : Bool}
    {s : State} (hforce : ∀ v, (force s).setRes v = (write forced v).apply s)
    (hassign : ∀ x v, (assign (force s) x).setRes v = (write x v).apply s) :
    decodeFrame p ty unpack force assign len nb s =
      perform ((decodeVerdict p ty unpack len nb s.buf).map (decodeEffect write forced)) s := by
  rw [decodeFrame_eq]
  cases decodeVerdict p ty unpack len nb s.buf with
  | error f => rfl
  | ok y =>
    cases y with
    | none => exact congrArg _ (hforce 0)
    | some x => exact congrArg _ (hassign x 8)

/-- Every command performs its effect. -/
theorem exec_eq_perform (i : Instr) (s : State) : exec i s = perform (effect i s) s := by
  cases i with
  | crc7 len _ nb => exact crc7Command_eq_perform _ _ _ _
  | makeA | makeP | makeR => rfl
  | encA | encP | encR => exact encodeFrame_eq_perform _ _ _ _ _
  | decA =>
    exact decodeFrame_eq_perform (fun _ => rfl) fun x v => congrArg (State.setRes · v) (forceInvalidA_setInstA s x)
  | decP =>
    exact decodeFrame_eq_perform (fun _ => rfl) fun x v => congrArg (State.setRes · v) (forceInvalidP_setInstP s x)
  | decR =>
    exact decodeFrame_eq_perform (fun _ => rfl) fun x v => congrArg (State.setRes · v) (forceInvalidR_setInstR s x)
  | validA | validP | validR => rfl
  | gethcA | gethcP | gethcR | getfP | getfR => rfl

/-- A command goes on exactly where it has an effect, to the state after it. -/
theorem exec_eq_next_iff {i : Instr} {s t : State} : exec i s = .next t ↔ ∃ e, effect i s = .ok e ∧ t = e.apply s := by
  rw [exec_eq_perform]
  cases effect i s <;> simp [perform, eq_comm]

theorem exec_eq_fault {i : Instr} {s : State} {f : Fault} (h : effect i s = .error f) : exec i s = .fault f := by
  rw [exec_eq_perform, h, perform]

/-! ### What an effect leaves unchanged -/

section
variable (e : Effect) (s : State)

@[simp] theorem Effect.apply_arg : (e.apply s).arg = s.arg := by cases e <;> rfl
@[simp] theorem Effect.apply_status : (e.apply s).status = s.status := by cases e <;> rfl
@[simp] theorem Effect.apply_port : (e.apply s).port = s.port := by cases e <;> rfl
@[simp] theorem Effect.apply_readData : (e.apply s).readData = s.readData := by cases e <;> rfl
@[simp] theorem Effect.apply_resetDone : (e.apply s).resetDone = s.resetDone := by cases e <;> rfl

end

theorem exec_status {i : Instr} {s t : State} (h : exec i s = .next t) : t.status = s.status := by
  obtain ⟨e, -, rfl⟩ := exec_eq_next_iff.mp h
  exact e.apply_status s

/-! ### Which commands write which register file (R26) -/

/-- The operation codes R26 lists as writers of the file e writes; every command writes RES (R21). -/
def Effect.WrittenBy (op : BitVec 8) : Effect → Prop
  | .answer _ => True
  | .assignA _ _ => op ∈ [0x10#8, 0x30#8]
  | .assignP _ _ => op ∈ [0x11#8, 0x31#8]
  | .assignR _ _ => op ∈ [0x12#8, 0x32#8]
  | .store _ _ => op ∈ [0x20#8, 0x21#8, 0x22#8]
  | .output _ _ => op ∈ [0x50#8, 0x51#8, 0x52#8, 0x61#8, 0x62#8]

theorem except_map_eq_ok {ε α β : Type} {r : Except ε α} {f : α → β} {b : β} :
    r.map f = .ok b ↔ ∃ a, r = .ok a ∧ f a = b := by
  cases r <;> simp [Except.map]

theorem encodeEffect_writtenBy {b : Payload} {len : Nat} {ck nb : Bool} {m : Memory} {op : BitVec 8}
    (hop : op ∈ [0x20#8, 0x21#8, 0x22#8]) : (encodeEffect b len ck nb m).WrittenBy op := by
  unfold encodeEffect
  split
  · trivial
  · exact hop

theorem decodeEffect_writtenBy {α : Type} {write : α → Byte → Effect} {forced : α} {y : Option α} {op : BitVec 8}
    (hop : ∀ x v, (write x v).WrittenBy op) : (decodeEffect write forced y).WrittenBy op := by
  cases y with
  | none => exact hop forced 0
  | some x => exact hop x 8

theorem effect_writtenBy {i : Instr} {s : State} {e : Effect} (h : effect i s = .ok e) : e.WrittenBy i.opcode := by
  cases i with
  | crc7 =>
    obtain ⟨c, -, rfl⟩ := except_map_eq_ok.mp h
    trivial
  | makeA | makeP | makeR =>
    cases h
    simp [Effect.WrittenBy, Instr.opcode]
  | encA | encP | encR =>
    cases h
    exact encodeEffect_writtenBy (by simp [Instr.opcode])
  | decA | decP | decR =>
    obtain ⟨y, -, rfl⟩ := except_map_eq_ok.mp h
    exact decodeEffect_writtenBy fun x v => by simp [Effect.WrittenBy, Instr.opcode]
  | validA | validP | validR =>
    cases h
    trivial
  | gethcA | gethcP | gethcR | getfP | getfR =>
    cases h
    simp [outputEffect, Effect.WrittenBy, Instr.opcode]

/-! ### Which commands read which register file (R21, R26) -/

section
variable {i : Instr} (s : State)

/-- No command reads RES or STATUS (R21). -/
theorem effect_res_status (r x : Byte) : effect i { s with res := r, status := x } = effect i s := by
  cases i <;> rfl

/-- No command reads OUT. -/
theorem effect_out (o : Vector Byte Config.outBytes) : effect i { s with out := o } = effect i s := by
  cases i <;> rfl

theorem effect_arg (h : i.opcode ∉ [0x10#8, 0x11#8, 0x12#8]) (g : Vector Byte Config.argBytes) :
    effect i { s with arg := g } = effect i s := by
  cases i with
  | makeA | makeP | makeR => simp [Instr.opcode] at h
  | _ => rfl

theorem effect_instAs (h : i.opcode ∉ [0x10#8, 0x20#8, 0x30#8, 0x40#8, 0x50#8])
    (x : Vector Alert Config.instancesPerVariant) : effect i { s with instAs := x } = effect i s := by
  cases i with
  | makeA | encA | decA | validA | gethcA => simp [Instr.opcode] at h
  | _ => rfl

theorem effect_instPs (h : i.opcode ∉ [0x11#8, 0x21#8, 0x31#8, 0x41#8, 0x51#8, 0x61#8])
    (x : Vector PollCmd Config.instancesPerVariant) : effect i { s with instPs := x } = effect i s := by
  cases i with
  | makeP | encP | decP | validP | gethcP | getfP => simp [Instr.opcode] at h
  | _ => rfl

theorem effect_instRs (h : i.opcode ∉ [0x12#8, 0x22#8, 0x32#8, 0x42#8, 0x52#8, 0x62#8])
    (x : Vector PollResp Config.instancesPerVariant) : effect i { s with instRs := x } = effect i s := by
  cases i with
  | makeR | encR | decR | validR | gethcR | getfR => simp [Instr.opcode] at h
  | _ => rfl

theorem effect_buf (h : i.opcode ∉ [0x01#8, 0x20#8, 0x21#8, 0x22#8, 0x30#8, 0x31#8, 0x32#8]) (m : Memory) :
    effect i { s with buf := m } = effect i s := by
  cases i with
  | crc7 | encA | encP | encR | decA | decP | decR => simp [Instr.opcode] at h
  | _ => rfl

end

/-! ### Where a command stops (R28, R33) -/

/-- r is an answer where the first n bytes of BUF are written, and stops on an unspecified one of them otherwise. -/
def ReadsBelow {α : Type} (n : Nat) (m : Memory) (r : Except Fault α) : Prop :=
  (Specified n m ∧ ∃ x, r = .ok x) ∨ ∃ a, a < n ∧ Memory.read m a = none ∧ r = .error (.unspecifiedByte a)

theorem ReadsBelow.of_ok {α : Type} {m : Memory} {x : α} : ReadsBelow 0 m (.ok x) :=
  .inl ⟨fun i hi => absurd hi (Nat.not_lt_zero i), x, rfl⟩

theorem ReadsBelow.map {α β : Type} {n : Nat} {m : Memory} {r : Except Fault α} (h : ReadsBelow n m r) (f : α → β) :
    ReadsBelow n m (r.map f) := by
  obtain ⟨hs, x, rfl⟩ | ⟨a, ha, hn, rfl⟩ := h
  · exact .inl ⟨hs, f x, rfl⟩
  · exact .inr ⟨a, ha, hn, rfl⟩

theorem readPayload_readsBelow (m : Memory) : ReadsBelow 7 m (readPayload m) := by
  cases hr : readPayload m with
  | ok b =>
    obtain ⟨h0, h1, h2, h3, h4, h5, h6⟩ := readPayload_eq_ok.mp hr
    refine .inl ⟨fun i hi => ?_, b, rfl⟩
    interval_cases i <;> simp [*]
  | error f =>
    obtain ⟨a, ha, rfl, hn⟩ := readPayload_eq_error hr
    exact .inr ⟨a, ha, hn, rfl⟩

theorem readFrame_readsBelow (m : Memory) : ReadsBelow 8 m (readFrame m) := by
  cases hr : readFrame m with
  | ok f =>
    obtain ⟨hp, h7⟩ := readFrame_eq_ok.mp hr
    obtain ⟨h0, h1, h2, h3, h4, h5, h6⟩ := readPayload_eq_ok.mp hp
    refine .inl ⟨fun i hi => ?_, f, rfl⟩
    interval_cases i <;> simp [*]
  | error f =>
    obtain ⟨a, ha, rfl, hn⟩ := readFrame_eq_error hr
    exact .inr ⟨a, ha, hn, rfl⟩

theorem crc7_readsBelow (p : Params) (len : Nat) (nb : Bool) (m : Memory) :
    ReadsBelow (if bufferShort Config.framePayloadBytes len nb then 0 else Config.framePayloadBytes) m
      (crc7 p len nb m) := by
  unfold crc7
  split
  · exact .of_ok
  · exact (readPayload_readsBelow m).map _

theorem decodeVerdict_readsBelow {α : Type} (p : Params) (ty : Byte) (unpack : Payload → Option α) (len : Nat) (nb : Bool)
    (m : Memory) :
    ReadsBelow (if bufferShort Config.frameBytes len nb then 0 else Config.frameBytes) m
      (decodeVerdict p ty unpack len nb m) := by
  unfold decodeVerdict
  split
  · exact .of_ok
  · exact (readFrame_readsBelow m).map _

theorem effect_readsBelow (i : Instr) (s : State) : ReadsBelow (bytesRead i) s.buf (effect i s) := by
  cases i with
  | crc7 => exact (crc7_readsBelow _ _ _ _).map _
  | decA | decP | decR => exact (decodeVerdict_readsBelow _ _ _ _ _ _).map _
  | _ => exact .of_ok

end Machine
end Sys2Proof

/-! PROOF. Which register files a command writes and reads, and where it stops, read off its effect (R21, R26, R28). -/

namespace Sys2Proof
namespace Machine

/-- Settles O39: the effect names the one file written beside RES, and effect_writtenBy the commands it belongs to. -/
theorem writersOfRegisterFiles : Obligations.WritersOfRegisterFiles := by
  unfold Obligations.WritersOfRegisterFiles
  intro i s t h
  obtain ⟨e, he, rfl⟩ := exec_eq_next_iff.mp h
  have hw := effect_writtenBy he
  refine ⟨e.apply_arg s, e.apply_status s, e.apply_port s, e.apply_readData s, e.apply_resetDone s, ?_, ?_, ?_, ?_, ?_⟩ <;>
    intro hop
  · cases e with
    | assignA => exact absurd hw hop
    | _ => rfl
  · cases e with
    | assignP => exact absurd hw hop
    | _ => rfl
  · cases e with
    | assignR => exact absurd hw hop
    | _ => rfl
  · cases e with
    | output => exact absurd hw hop
    | _ => rfl
  · cases e with
    | store => exact absurd hw hop
    | _ => exact fun _ => rfl

/-- A command with the same effect from s' goes on to the state after it there. -/
theorem exec_of_effect_eq {i : Instr} {s s' t' : State} {e : Effect} (he : effect i s = .ok e)
    (heff : effect i s' = effect i s) (ht : t' = e.apply s') : exec i s' = .next t' :=
  exec_eq_next_iff.mpr ⟨e, heff.trans he, ht⟩

/-- Settles O40: a command has the same effect whatever a file it does not read holds, and its effect, which does not write
that file either (R26 lists no writer of a file apart from its readers), commutes with replacing it. -/
theorem readersOfRegisterFiles : Obligations.ReadersOfRegisterFiles := by
  unfold Obligations.ReadersOfRegisterFiles
  intro i s t h
  obtain ⟨e, he, rfl⟩ := exec_eq_next_iff.mp h
  have hw := effect_writtenBy he
  refine ⟨fun r x => ?_, fun hop g => ?_, fun hop x => ?_, fun hop x => ?_, fun hop x => ?_, fun hop m => ?_,
    fun hop o => ?_⟩
  · refine exec_of_effect_eq he (effect_res_status s r x) ?_
    cases e <;> rfl
  · refine exec_of_effect_eq he (effect_arg s hop g) ?_
    cases e <;> rfl
  · refine exec_of_effect_eq he (effect_instAs s hop x) ?_
    cases e with
    | assignA => exact (hop (List.Sublist.subset (by decide) hw)).elim
    | _ => rfl
  · refine exec_of_effect_eq he (effect_instPs s hop x) ?_
    cases e with
    | assignP => exact (hop (List.Sublist.subset (by decide) hw)).elim
    | _ => rfl
  · refine exec_of_effect_eq he (effect_instRs s hop x) ?_
    cases e with
    | assignR => exact (hop (List.Sublist.subset (by decide) hw)).elim
    | _ => rfl
  · refine exec_of_effect_eq he (effect_buf s hop m) ?_
    cases e with
    | store => exact (hop (List.Sublist.subset (by decide) hw)).elim
    | _ => rfl
  · refine exec_of_effect_eq he (effect_out s o) ?_
    cases e with
    | output => exact absurd hw hop
    | _ => rfl

/-- Settles O41: a command stops with its effect, which reads the bytes bytesRead counts (effect_readsBelow). -/
theorem commandsStopOnlyOnUnspecifiedBytes : Obligations.CommandsStopOnlyOnUnspecifiedBytes := by
  unfold Obligations.CommandsStopOnlyOnUnspecifiedBytes
  intro i s
  obtain ⟨hs, e, he⟩ | ⟨a, ha, hn, he⟩ := effect_readsBelow i s
  · exact ⟨fun _ => ⟨_, exec_eq_next_iff.mpr ⟨e, he, rfl⟩⟩, fun h => absurd hs h⟩
  · refine ⟨fun h => ?_, fun _ => ⟨a, ha, hn, exec_eq_fault he⟩⟩
    have := h a ha
    simp [hn] at this

end Machine
end Sys2Proof

/-! PROOF. The state invariant: every message a command assigns is legal (R16), every BUF it stores is canonical (R29), and
STATUS takes no reserved bit (R22). -/

namespace Sys2Proof
namespace Machine

/-! ### Messages with their fields in range (R16) -/

theorem clamp_bounds (v lo hi : Byte) (h : lo.toNat ≤ hi.toNat) :
    lo.toNat ≤ (clamp v lo hi).toNat ∧ (clamp v lo hi).toNat ≤ hi.toNat := by
  rw [clamp_toNat h]
  omega

/-- A clamped byte keeps its bounds in a field of k bits that holds the upper one. -/
theorem setWidth_clamp_bounds (v lo hi : Byte) (k : Nat) (h : lo.toNat ≤ hi.toNat) (hk : hi.toNat < 2 ^ k) :
    lo.toNat ≤ ((clamp v lo hi).setWidth k).toNat ∧ ((clamp v lo hi).setWidth k).toNat ≤ hi.toNat := by
  have hb := clamp_bounds v lo hi h
  rw [BitVec.toNat_setWidth, Nat.mod_eq_of_lt (Nat.lt_of_le_of_lt hb.2 hk)]
  exact hb

theorem pollCmdOfArg_legal (arg : Vector Byte Config.argBytes) : (pollCmdOfArg arg).Legal :=
  ⟨(setWidth_clamp_bounds arg[2] 0 100 7 (by decide) (by decide)).2,
    (setWidth_clamp_bounds arg[4] 1 15 4 (by decide) (by decide)).1,
    (setWidth_clamp_bounds arg[5] 1 3 2 (by decide) (by decide)).1⟩

theorem pollRespOfArg_legal (arg : Vector Byte Config.argBytes) : (pollRespOfArg arg).Legal :=
  ⟨(setWidth_clamp_bounds arg[2] 0 50 6 (by decide) (by decide)).2,
    (clamp_bounds arg[3] 0 199 (by decide)).2,
    (clamp_bounds arg[4] 0 199 (by decide)).2,
    setWidth_clamp_bounds arg[5] 1 62 6 (by decide) (by decide)⟩

theorem unpackPollCmd_legal {p : Params} {b : Payload} {x : PollCmd} (h : unpackPollCmd p b = some x) : x.Legal := by
  simp only [unpackPollCmd, Option.ite_none_left_eq_some, Option.some.injEq] at h
  obtain ⟨hrp, hlf, hlt, -, -, rfl⟩ := h
  simp only [PollCmd.Legal, BitVec.toNat_setWidth]
  bv_omega

theorem unpackPollResp_legal {b : Payload} {x : PollResp} (h : unpackPollResp b = some x) : x.Legal := by
  simp only [unpackPollResp, Option.ite_none_left_eq_some, Option.some.injEq] at h
  obtain ⟨hrh, htp, htr, hal, rfl⟩ := h
  simp only [PollResp.Legal]
  bv_omega

/-- A message a DEC.x accepts is one its unpacker gives. -/
theorem decodeVerdict_eq_some {α : Type} {p : Params} {ty : Byte} {unpack : Payload → Option α} {len : Nat} {nb : Bool}
    {m : Memory} {x : α} (h : decodeVerdict p ty unpack len nb m = .ok (some x)) : ∃ b, unpack b = some x := by
  unfold decodeVerdict at h
  split at h
  · cases h
  · obtain ⟨f, -, hv⟩ := except_map_eq_ok.mp h
    exact ⟨f.payload, (validateFrame_eq_some.mp hv).2.1⟩

/-! ### The updates of a step keep the invariant -/

section
variable {s : State} (h : s.Inv)
include h

theorem State.Inv.assignP {x : PollCmd} (hx : x.Legal) (v : Byte) : ((Effect.assignP x v).apply s).Inv := by
  obtain ⟨⟨-, hR⟩, hb, hs⟩ := h
  refine ⟨⟨?_, hR⟩, hb, hs⟩
  show (s.setInstP x).instP.Legal
  rwa [State.setInstP_instP]

theorem State.Inv.assignR {x : PollResp} (hx : x.Legal) (v : Byte) : ((Effect.assignR x v).apply s).Inv := by
  obtain ⟨⟨hP, -⟩, hb, hs⟩ := h
  refine ⟨⟨hP, ?_⟩, hb, hs⟩
  show (s.setInstR x).instR.Legal
  rwa [State.setInstR_instR]

theorem State.Inv.setBuf {m : Memory} (hm : Memory.wf m) : (s.setBuf m).Inv := ⟨h.1, hm, h.2.2⟩

theorem State.Inv.encodeEffect (b : Payload) (len : Nat) (ck nb : Bool) :
    ((encodeEffect b len ck nb s.buf).apply s).Inv := by
  unfold Machine.encodeEffect
  split
  · exact h
  · exact h.setBuf (encodedBuf_wf h.2.1)

theorem State.Inv.apply_effect {i : Instr} {e : Effect} (he : effect i s = .ok e) : (e.apply s).Inv := by
  have ⟨⟨hP, hR⟩, _, _⟩ := h
  cases i with
  | crc7 =>
    obtain ⟨c, -, rfl⟩ := except_map_eq_ok.mp he
    exact h
  | makeA =>
    cases he
    exact h
  | makeP =>
    cases he
    exact h.assignP (pollCmdOfArg_legal s.arg) _
  | makeR =>
    cases he
    exact h.assignR (pollRespOfArg_legal s.arg) _
  | encA | encP | encR =>
    cases he
    exact h.encodeEffect _ _ _ _
  | decA =>
    obtain ⟨y, -, rfl⟩ := except_map_eq_ok.mp he
    cases y <;> exact h
  | decP =>
    obtain ⟨y, hy, rfl⟩ := except_map_eq_ok.mp he
    cases y with
    | none => exact h.assignP (x := { s.instP with hc1 := Config.hcInvalid, hc2 := Config.hcInvalid }) hP 0
    | some x =>
      obtain ⟨b, hb⟩ := decodeVerdict_eq_some hy
      exact h.assignP (unpackPollCmd_legal hb) _
  | decR =>
    obtain ⟨y, hy, rfl⟩ := except_map_eq_ok.mp he
    cases y with
    | none => exact h.assignR (x := { s.instR with hc1 := Config.hcInvalid, hc2 := Config.hcInvalid }) hR 0
    | some x =>
      obtain ⟨b, hb⟩ := decodeVerdict_eq_some hy
      exact h.assignR (unpackPollResp_legal hb) _
  | validA | validP | validR =>
    cases he
    exact h
  | gethcA | gethcP | gethcR | getfP | getfR =>
    cases he
    exact h

theorem State.Inv.raiseIllegalCommand : (raiseIllegalCommand s).Inv := by
  refine ⟨h.1, h.2.1, ?_⟩
  have hs : s.status &&& 0xFE#8 = 0 := h.2.2
  show (s.status ||| 0x01) &&& 0xFE#8 = 0
  rw [BitVec.and_comm, BitVec.and_or_distrib_left, BitVec.and_comm, hs]
  rfl

end

/-- Settles O38: the reset state is one concrete state. -/
theorem resetHasInvariant : Obligations.ResetHasInvariant := by
  unfold Obligations.ResetHasInvariant
  decide

/-- Settles O37, along what a step that goes on can have done (step_cases). -/
theorem stepKeepsInvariant : Obligations.StepKeepsInvariant := by
  unfold Obligations.StepKeepsInvariant
  intro s t h hstep
  obtain ⟨-, rfl⟩ | ⟨rest, -, rfl⟩ | ⟨-, a, rest, -, hserved⟩ := step_cases hstep
  · exact h
  · exact resetHasInvariant
  · have hp : (s.setPort rest).Inv := h
    obtain ⟨w, i, -, -, hexec⟩ | ⟨w, e, -, -, rfl⟩ | ⟨i, v, -, hi, rfl⟩ | ⟨i, v, -, rfl⟩ | ⟨v, -, rfl⟩ | ⟨v, rfl⟩ := hserved
    · obtain ⟨e, he, rfl⟩ := exec_eq_next_iff.mp hexec
      exact hp.apply_effect he
    · exact hp.raiseIllegalCommand
    · exact hp.setBuf (Memory.write_wf h.2.1 hi)
    · exact h
    · exact h
    · exact h

end Machine
end Sys2Proof

/-! PROOF. The block's port: which words are illegal, what each host access answers, and what a step does to STATUS. -/

namespace Sys2Proof
namespace Machine

/-! ### Illegal words (R49, R50) -/

theorem commandOf_eq_none_iff (op : BitVec 8) :
    commandOf op = none ↔
      op.toNat ∉ [0x01, 0x10, 0x11, 0x12, 0x20, 0x21, 0x22, 0x30, 0x31, 0x32, 0x40, 0x41, 0x42, 0x50, 0x51, 0x52, 0x61,
        0x62] := by
  unfold commandOf
  split
  case h_19 => simp_all [BitVec.toNat_eq]
  all_goals simp

/-- The decoder rejects exactly the words R49 calls illegal. -/
theorem illegalWord_iff (w : CmdWord) : IllegalWord w ↔ ∃ e, decode w = .error e := by
  unfold IllegalWord
  by_cases hr : rsvField w = 0
  · have hz : w.toNat / 2 ^ 18 = 0 := (rsvField_eq_zero_iff w).mp hr
    rw [or_iff_right (not_not.mpr hz), decode_of_rsv_zero hr, ← toNat_opField, ← commandOf_eq_none_iff]
    cases commandOf (opField w) <;> simp
  · have hz : w.toNat / 2 ^ 18 ≠ 0 := mt (rsvField_eq_zero_iff w).mpr hr
    exact iff_of_true (.inl hz) ⟨_, decode_of_rsv hr⟩

theorem issue_of_decode {w : CmdWord} {i : Instr} (h : decode w = .ok i) (s : State) : issue w s = exec i s := by
  simp [issue, h]

theorem issue_of_illegal {w : CmdWord} (h : IllegalWord w) (s : State) : issue w s = .next (raiseIllegalCommand s) := by
  obtain ⟨e, he⟩ := (illegalWord_iff w).mp h
  simp [issue, he]

/-! ### What each access answers -/

theorem step_of_ready {s : State} {a : HostAccess} {rest : List HostAccess} (hr : s.resetDone = true)
    (hp : s.port = a :: rest) : step s = serve a (s.setPort rest) :=
  (step_cons hp).trans (hostAccess_ready hr)

theorem memRead_past {m : Memory} {a n : Nat} (h : n ≤ a) : memRead m a n = .error (.noSuchLocation a) :=
  if_neg (Nat.not_lt.mpr h)

theorem memRead_unspecified {m : Memory} {a n : Nat} (ha : a < n) (h : Memory.read m a = none) :
    memRead m a n = .error (.unspecifiedByte a) := by
  simp [memRead, ha, h]

theorem memWrite_past {m : Memory} {a n : Nat} {v : Byte} (h : n ≤ a) : memWrite m a v n = .error (.noSuchLocation a) :=
  if_neg (Nat.not_lt.mpr h)

theorem registerByte_of_lt {n : Nat} (v : Vector Byte n) {i : Nat} (h : i < n) : registerByte v i = .ok v[i] := dif_pos h

theorem registerByte_past {n : Nat} (v : Vector Byte n) {i : Nat} (h : n ≤ i) :
    registerByte v i = .error (.noSuchLocation i) :=
  dif_neg (Nat.not_lt.mpr h)

section
variable (s : State)

theorem serve_writeBuf {i : Nat} (v : Byte) (h : i < 8) :
    serve (.writeBuf i v) s = .next (s.setBuf (Memory.write s.buf i v)) := by
  simp [serve, hostWriteBuf, memWrite_eq_ok.mpr ⟨h, rfl⟩]

theorem serve_writeBuf_past {i : Nat} (v : Byte) (h : 8 ≤ i) :
    serve (.writeBuf i v) s = .fault (.noSuchLocation i) := by
  simp [serve, hostWriteBuf, memWrite_past h]

theorem serve_writeArg {i : Nat} (v : Byte) (h : i < 9) : serve (.writeArg i v) s = .next (s.setArg ⟨i, h⟩ v) := dif_pos h

theorem serve_writeArg_past {i : Nat} (v : Byte) (h : 9 ≤ i) : serve (.writeArg i v) s = .fault (.noSuchLocation i) :=
  dif_neg (Nat.not_lt.mpr h)

theorem serve_readBuf {i : Nat} {v : Byte} (hi : i < 8) (h : Memory.read s.buf i = some v) :
    serve (.readBuf i) s = .next (s.setReadData v) := by
  simp [serve, hostReadBuf, memRead_eq_ok.mpr ⟨hi, h⟩, answerRead]

theorem serve_readBuf_unspecified {i : Nat} (hi : i < 8) (h : Memory.read s.buf i = none) :
    serve (.readBuf i) s = .fault (.unspecifiedByte i) := by
  simp [serve, hostReadBuf, memRead_unspecified hi h, answerRead]

theorem serve_readBuf_past {i : Nat} (h : 8 ≤ i) : serve (.readBuf i) s = .fault (.noSuchLocation i) := by
  simp [serve, hostReadBuf, memRead_past h, answerRead]

theorem serve_readArg {i : Nat} (h : i < 9) : serve (.readArg i) s = .next (s.setReadData s.arg[i]) := by
  simp [serve, registerByte_of_lt s.arg h, answerRead]

theorem serve_readArg_past {i : Nat} (h : 9 ≤ i) : serve (.readArg i) s = .fault (.noSuchLocation i) := by
  simp [serve, registerByte_past s.arg h, answerRead]

theorem serve_readOut {i : Nat} (h : i < 9) : serve (.readOut i) s = .next (s.setReadData s.out[i]) := by
  simp [serve, registerByte_of_lt s.out h, answerRead]

theorem serve_readOut_past {i : Nat} (h : 9 ≤ i) : serve (.readOut i) s = .fault (.noSuchLocation i) := by
  simp [serve, registerByte_past s.out h, answerRead]

end

/-! ### The step -/

/-- Settles O7: the decoder's two outcomes, after the word has left the port. -/
theorem stepRunsDecodedCommand : Obligations.StepRunsDecodedCommand := by
  unfold Obligations.StepRunsDecodedCommand
  intro s w rest hr hp
  rw [step_of_ready hr hp]
  exact ⟨fun i hi _ => issue_of_decode hi _, fun hw => issue_of_illegal hw _⟩

/-- Settles O9: the port's empty case. -/
theorem idleChangesNothing : Obligations.IdleChangesNothing := by
  unfold Obligations.IdleChangesNothing
  exact fun s h => step_nil h

/-! ### Host accesses (R27) -/

/-- Settles O48, access by access. -/
theorem hostAccessesOfBufArgOutRes : Obligations.HostAccessesOfBufArgOutRes := by
  unfold Obligations.HostAccessesOfBufArgOutRes
  intro s rest hr
  refine ⟨fun i v hi hp => ?_, fun i v hp => ?_, fun i v hi hv hp => ?_, fun i hp => ?_, fun i hp => ?_, fun hp => ?_⟩ <;>
    rw [step_of_ready hr hp]
  · exact ⟨_, serve_writeBuf _ v hi, rfl, Memory.read_write s.buf i v⟩
  · refine ⟨_, serve_writeArg _ v i.isLt, rfl, fun k => ?_⟩
    show (s.arg.set i v)[k.val] = _
    rw [Vector.getElem_set]
    simp [Fin.ext_iff, eq_comm]
  · exact serve_readBuf _ hi hv
  · exact serve_readArg _ i.isLt
  · exact serve_readOut _ i.isLt
  · rfl

/-- Settles O49, access by access. -/
theorem hostAccessesThatStop : Obligations.HostAccessesThatStop := by
  unfold Obligations.HostAccessesThatStop
  intro s rest hr
  refine ⟨fun i hi hn hp => ?_, fun i v hi hp => ?_, fun i v hi hp => ?_, fun hp => ?_, fun i v hp => ?_⟩
  · rw [step_of_ready hr hp]
    exact serve_readBuf_unspecified _ hi hn
  · obtain hp | hp := hp <;> rw [step_of_ready hr hp]
    · exact serve_readBuf_past _ hi
    · exact serve_writeBuf_past _ v hi
  · obtain hp | hp | hp := hp <;> rw [step_of_ready hr hp]
    · exact serve_readArg_past _ hi
    · exact serve_writeArg_past _ v hi
    · exact serve_readOut_past _ hi
  · rw [step_of_ready hr hp]
    rfl
  · obtain hp | hp := hp <;> rw [step_of_ready hr hp] <;> rfl

/-! ### Prepared accesses (R125) -/

theorem accessReady_setPort {s : State} {a : HostAccess} (rest : List HostAccess) (h : AccessReady s a) :
    AccessReady (s.setPort rest) a := by
  cases a <;> exact h

theorem issue_goes_on {w : CmdWord} {s : State} (h : ∀ i, decode w = .ok i → Specified (bytesRead i) s.buf) :
    ∃ t, issue w s = .next t := by
  cases hd : decode w with
  | ok i =>
    rw [issue_of_decode hd]
    exact (commandsStopOnlyOnUnspecifiedBytes i s).1 (h i hd)
  | error e => exact ⟨_, issue_of_illegal ((illegalWord_iff w).mpr ⟨e, hd⟩) s⟩

/-- Before the first reset only reset is prepared; after it, every access AccessReady names has an answer. -/
theorem hostAccess_goes_on {a : HostAccess} {s : State} (h : AccessReady s a) : ∃ t, hostAccess a s = .next t := by
  cases a with
  | reset | resetDuring =>
    unfold hostAccess
    split <;> exact ⟨_, rfl⟩
  | writeOut | writeRes | readCmd => exact h.elim
  | writeStatus | readRes | readStatus =>
    rw [hostAccess_ready h]
    exact ⟨_, rfl⟩
  | command w =>
    rw [hostAccess_ready h.1]
    exact issue_goes_on h.2
  | writeBuf i v =>
    rw [hostAccess_ready h.1]
    exact ⟨_, serve_writeBuf s v h.2⟩
  | writeArg i v =>
    rw [hostAccess_ready h.1]
    exact ⟨_, serve_writeArg s v h.2⟩
  | readBuf i =>
    obtain ⟨hr, hi, hv⟩ := h
    obtain ⟨v, hv⟩ := Option.isSome_iff_exists.mp hv
    rw [hostAccess_ready hr]
    exact ⟨_, serve_readBuf s hi hv⟩
  | readArg i =>
    rw [hostAccess_ready h.1]
    exact ⟨_, serve_readArg s h.2⟩
  | readOut i =>
    rw [hostAccess_ready h.1]
    exact ⟨_, serve_readOut s h.2⟩

/-- Settles O42: a prepared access stays prepared once it has left the port, and then has an answer. -/
theorem preparedAccessIsSafe : Obligations.PreparedAccessIsSafe := by
  unfold Obligations.PreparedAccessIsSafe
  intro s a rest hp h
  unfold StepSafe
  rw [step_cons hp]
  exact hostAccess_goes_on (accessReady_setPort rest h)

/-! ### STATUS (R22) -/

/-- What a step that goes on has done to STATUS: nothing, unless it was a reset or an illegal command. -/
theorem step_status_cases {s t : State} (h : step s = .next t) :
    t.status = s.status ∨
    (∃ rest, (s.port = .reset :: rest ∨ ∃ w, s.port = .resetDuring w :: rest) ∧ t.status = 0) ∨
    (∃ w rest, s.port = .command w :: rest ∧ IllegalWord w ∧ t.status = s.status ||| 0x01) := by
  obtain ⟨-, rfl⟩ | ⟨rest, hp, rfl⟩ | ⟨-, a, rest, hp, hserved⟩ := step_cases h
  · exact .inl rfl
  · exact .inr (.inl ⟨rest, hp, rfl⟩)
  · obtain ⟨w, i, -, -, hexec⟩ | ⟨w, e, rfl, he, rfl⟩ | ⟨i, v, -, -, rfl⟩ | ⟨i, v, -, rfl⟩ | ⟨v, -, rfl⟩ | ⟨v, rfl⟩ := hserved
    · exact .inl (exec_status (s := s.setPort rest) hexec)
    · exact .inr (.inr ⟨w, rest, hp, (illegalWord_iff w).mpr ⟨e, he⟩, rfl⟩)
    · exact .inl rfl
    · exact .inl rfl
    · exact .inl rfl
    · exact .inl rfl

/-- The host reads ILL in bit 0 of STATUS and 0 in every other bit. -/
theorem getLsbD_statusView (s : State) (k : Nat) : (statusView s).getLsbD k = (decide (k = 0) && s.ill) := by
  cases k with
  | zero => simp [statusView, State.ill]
  | succ k => simp [statusView]

/-- Settles O47: ILL follows what a step can do to STATUS, and a host read what statusView shows. -/
theorem statusRegisterRules : Obligations.StatusRegisterRules := by
  unfold Obligations.StatusRegisterRules
  refine ⟨fun s t h hill => ?_, fun s t h hs ht => ?_, fun s rest hr hp => ?_, fun s v rest hr hp => ?_⟩
  · obtain hst | ⟨rest, hp, -⟩ | ⟨w, rest, -, -, hst⟩ := step_status_cases h
    · exact .inl (by rwa [State.ill, hst])
    · exact .inr ⟨rest, hp⟩
    · exact .inl (by simp [State.ill, hst])
  · obtain hst | ⟨rest, -, hst⟩ | ⟨w, rest, hp, hw, -⟩ := step_status_cases h
    · rw [State.ill, hst, ← State.ill, hs] at ht
      cases ht
    · rw [State.ill, hst] at ht
      cases ht
    · exact ⟨w, rest, hp, hw⟩
  · rw [step_of_ready hr hp]
    refine ⟨statusView s, rfl, getLsbD_statusView s 0, fun k hk => ?_⟩
    simp [getLsbD_statusView, Nat.ne_of_gt hk]
  · rw [step_of_ready hr hp]
    rfl

end Machine
end Sys2Proof

/-! PROOF. The reset values (R25), and the same messages made by MAKE.x. -/

namespace Sys2Proof
namespace Machine

/-- Settles O51: with every byte of ARG known, each factory's clamps and masks evaluate to the reset message. -/
theorem resetValues : Obligations.ResetValues := by
  unfold Obligations.ResetValues
  refine ⟨rfl, rfl, rfl, fun a => rfl, by decide, rfl, rfl, fun s t len ck nb h0 h1 hk => ?_⟩
  have h2 : s.arg[2] = 0 := hk 2 (by decide)
  have h3 : s.arg[3] = 0 := hk 3 (by decide)
  have h4 : s.arg[4] = 0 := hk 4 (by decide)
  have h5 : s.arg[5] = 0 := hk 5 (by decide)
  have h6 : s.arg[6] = 0 := hk 6 (by decide)
  have h7 : s.arg[7] = 0 := hk 7 (by decide)
  have h8 : s.arg[8] = 0 := hk 8 (by decide)
  refine ⟨fun h => ?_, fun h => ?_, fun h => ?_⟩ <;> cases h
  · simp only [State.setRes_instA, State.setInstA_instA, alertOfArg, h0, h1]
    rfl
  · simp only [State.setRes_instP, State.setInstP_instP, pollCmdOfArg, h0, h1, h2, h3, h4, h5]
    rfl
  · simp only [State.setRes_instR, State.setInstR_instR, pollRespOfArg, h0, h1, h2, h3, h4, h5, h6, h7, h8]
    rfl

end Machine
end Sys2Proof

/-! PROOF. Commands and BUF over time: a command issued twice (R37), a declared length past 8 (R31), an absent buffer (R32),
and a read of BUF after a write (R40). The first three are read off the command's effect. -/

namespace Sys2Proof
namespace Machine

/-! ### A command issued twice (R37) -/

/-- An effect writes values that do not depend on the state it is applied to, so applying it again changes nothing. -/
theorem Effect.apply_apply (e : Effect) (s : State) : e.apply (e.apply s) = e.apply s := by
  cases e with
  | answer | store => rfl
  | assignA | assignP | assignR => simp [Effect.apply]
  | output => simp [Effect.apply, State.setRes_setOut]

/-- Storing a frame over itself leaves BUF as it is: every byte reads the same, and BUF is in canonical form. -/
theorem encodedBuf_encodedBuf {p : Params} {b : Payload} {ck : Bool} {m : Memory} (hm : Memory.wf m) :
    encodedBuf p b ck (encodedBuf p b ck m) = encodedBuf p b ck m := by
  refine Memory.wf_ext (encodedBuf_wf (encodedBuf_wf hm)) (encodedBuf_wf hm) fun a => ?_
  rw [read_encodedBuf p b ck (encodedBuf p b ck m), read_encodedBuf p b ck m a, read_encodedBuf p b ck m 7]
  by_cases h : a = 7
  · cases ck <;> simp [h]
  · simp [h, ← Option.or_assoc]

/-- ENC.x has the same effect after itself: it does not write the message it packs, and stores the frame over itself. -/
theorem encodeEffect_after_itself {pack : State → Payload} {s : State} (len : Nat) (ck nb : Bool)
    (hpack : ∀ m v, pack ((s.setBuf m).setRes v) = pack s) (hm : Memory.wf s.buf) :
    let e := encodeEffect (pack s) len ck nb s.buf
    encodeEffect (pack (e.apply s)) len ck nb (e.apply s).buf = e := by
  by_cases hrej : encodeRejected len ck nb = true
  · simp [encodeEffect, hrej]
  · simp [encodeEffect, hrej, Effect.apply, hpack, encodedBuf_encodedBuf hm]

/-- DEC.x has the same effect where its verdict is the same: the message it finds counts only where the verdict is a
failure. -/
theorem decodeEffect_of_verdict {α : Type} {write : α → Byte → Effect} {forced forced' : α} {r : Except Fault (Option α)}
    {y : Option α} (hy : r = .ok y) (hforced : y = none → forced' = forced) :
    r.map (decodeEffect write forced') = .ok (decodeEffect write forced y) := by
  subst hy
  cases y with
  | none => exact congrArg (fun x => Except.ok (write x 0)) (hforced rfl)
  | some x => rfl

/-- A command has the same effect after itself: what it writes and also reads is the frame ENC.x stores and the message
DEC.x forces to be invalid. -/
theorem effect_after_itself {i : Instr} {s : State} {e : Effect} (hm : Memory.wf s.buf) (he : effect i s = .ok e) :
    effect i (e.apply s) = .ok e := by
  cases i with
  | crc7 =>
    obtain ⟨c, -, rfl⟩ := except_map_eq_ok.mp he
    exact he
  | makeA | makeP | makeR =>
    cases he
    rfl
  | encA len ck nb =>
    obtain rfl := Except.ok.inj he
    exact congrArg Except.ok (encodeEffect_after_itself (pack := fun t => packAlert t.instA) len ck nb (fun _ _ => rfl) hm)
  | encP len ck nb =>
    obtain rfl := Except.ok.inj he
    exact congrArg Except.ok (encodeEffect_after_itself (pack := fun t => packPollCmd t.instP) len ck nb (fun _ _ => rfl) hm)
  | encR len ck nb =>
    obtain rfl := Except.ok.inj he
    exact congrArg Except.ok (encodeEffect_after_itself (pack := fun t => packPollResp t.instR) len ck nb (fun _ _ => rfl) hm)
  | decA =>
    obtain ⟨y, hy, rfl⟩ := except_map_eq_ok.mp he
    exact decodeEffect_of_verdict (by cases y <;> exact hy) fun _ => rfl
  | decP | decR =>
    obtain ⟨y, hy, rfl⟩ := except_map_eq_ok.mp he
    refine decodeEffect_of_verdict (by cases y <;> exact hy) fun hnone => ?_
    simp [hnone, decodeEffect, Effect.apply]
  | validA | validP | validR | gethcA | gethcP | gethcR | getfP | getfR =>
    cases he
    rfl

/-- Settles O43: the second issue has the effect of the first, and that effect changes nothing where it has just been
applied. -/
theorem commandsAreIdempotent : Obligations.CommandsAreIdempotent := by
  unfold Obligations.CommandsAreIdempotent
  intro i s t hm h
  obtain ⟨e, he, rfl⟩ := exec_eq_next_iff.mp h
  exact exec_eq_next_iff.mpr ⟨e, effect_after_itself hm he, (e.apply_apply s).symm⟩

/-! ### The declared length (R31) -/

/-- Two commands with the same effect from a state have the same outcome from it. -/
theorem exec_congr_effect {i j : Instr} {s : State} (h : effect i s = effect j s) : exec i s = exec j s := by
  rw [exec_eq_perform, exec_eq_perform, h]

/-- A length check for at most k bytes does not tell a LEN of k from a larger one. -/
theorem bufferShort_saturates {n k len : Nat} (nb : Bool) (hn : n ≤ k) (hk : k ≤ len) :
    bufferShort n len nb = bufferShort n k nb := by
  simp [bufferShort, Nat.not_lt.mpr hn, Nat.not_lt.mpr (hn.trans hk)]

section
variable {len : Nat} (h : 8 ≤ len)
include h

theorem crc7_saturates (p : Params) (nb : Bool) (m : Memory) : crc7 p len nb m = crc7 p 8 nb m := by
  rw [crc7, bufferShort_saturates nb (by decide) h, ← crc7]

theorem encodeEffect_saturates (b : Payload) (ck nb : Bool) (m : Memory) :
    encodeEffect b len ck nb m = encodeEffect b 8 ck nb m := by
  have hrej : encodeRejected len ck nb = encodeRejected 8 ck nb := by
    simp [encodeRejected, bufferShort_saturates nb (by decide : Config.framePayloadBytes ≤ 8) h, Nat.not_lt.mpr h]
  rw [encodeEffect, hrej, ← encodeEffect]

theorem decodeVerdict_saturates {α : Type} (p : Params) (ty : Byte) (unpack : Payload → Option α) (nb : Bool)
    (m : Memory) : decodeVerdict p ty unpack len nb m = decodeVerdict p ty unpack 8 nb m := by
  rw [decodeVerdict, bufferShort_saturates nb (by decide) h, ← decodeVerdict]

end

/-- Settles O45: CRC7, ENC.x and DEC.x each use LEN in a length check for 7 or 8 bytes and nowhere else. -/
theorem declaredLengthSaturates : Obligations.DeclaredLengthSaturates := by
  unfold Obligations.DeclaredLengthSaturates
  simp only [List.forall_mem_cons, List.not_mem_nil, false_imp_iff, implies_true, and_true]
  refine ⟨?crc7, ?encA, ?encP, ?encR, ?decA, ?decP, ?decR⟩ <;> intro len ck nb s h <;> apply exec_congr_effect
  case crc7 => exact congrArg (Except.map Effect.answer) (crc7_saturates h _ nb s.buf)
  case encA | encP | encR => exact congrArg _ (encodeEffect_saturates h _ ck nb s.buf)
  case decA | decP | decR => exact congrArg (Except.map _) (decodeVerdict_saturates h _ _ _ nb s.buf)

/-! ### The absent buffer (R32) -/

/-- A command whose effect is the same on every BUF, answers 0x00 and does not write BUF. -/
theorem exec_of_effect_without_buf {i : Instr} {s : State} (e : Effect) (he : ∀ m, effect i { s with buf := m } = .ok e)
    (hres : (e.apply s).res = 0x00) (hbuf : ∀ m, e.apply { s with buf := m } = { e.apply s with buf := m }) (m : Memory) :
    ∃ t, exec i s = .next t ∧ t.res = 0x00 ∧ t.buf = s.buf ∧ exec i { s with buf := m } = .next { t with buf := m } :=
  ⟨e.apply s, exec_eq_next_iff.mpr ⟨e, he s.buf, rfl⟩, hres, (congrArg State.buf (hbuf s.buf) :),
    exec_eq_next_iff.mpr ⟨e, he m, (hbuf m).symm⟩⟩

/-- Settles O46: with NB = 1 the effect of CRC7 and ENC.x is the answer 0x00, and that of DEC.x the forced-invalid message
with the answer 0x00, on every BUF. -/
theorem absentBufferFails : Obligations.AbsentBufferFails := by
  unfold Obligations.AbsentBufferFails
  simp only [List.forall_mem_cons, List.not_mem_nil, false_imp_iff, implies_true, and_true]
  refine ⟨?crc7, ?encA, ?encP, ?encR, ?decA, ?decP, ?decR⟩ <;> intro len ck s m
  case crc7 | encA | encP | encR =>
    exact exec_of_effect_without_buf (.answer 0) (fun _ => rfl) rfl (fun _ => rfl) m
  case decA => exact exec_of_effect_without_buf (.assignA _ 0) (fun _ => rfl) rfl (fun _ => rfl) m
  case decP =>
    exact exec_of_effect_without_buf (.assignP { s.instP with hc1 := Config.hcInvalid, hc2 := Config.hcInvalid } 0)
      (fun _ => rfl) rfl (fun _ => rfl) m
  case decR =>
    exact exec_of_effect_without_buf (.assignR { s.instR with hc1 := Config.hcInvalid, hc2 := Config.hcInvalid } 0)
      (fun _ => rfl) rfl (fun _ => rfl) m

/-! ### A read of BUF after a write (R40) -/

/-- A read of a written byte of BUF that is next on the port returns that byte. -/
theorem step_readBuf {s : State} {j : Nat} {v : Byte} {rest : List HostAccess} (hr : s.resetDone = true) (hj : j < 8)
    (hp : s.port = .readBuf j :: rest) (hv : Memory.read s.buf j = some v) :
    ∃ u, step s = .next u ∧ u.readData = some v :=
  ⟨_, (step_of_ready hr hp).trans (serve_readBuf _ hj hv), rfl⟩

/-- Settles O50: the write leaves the read next on the port, over a BUF that has changed in the byte written only. -/
theorem readSeesLastWrite : Obligations.ReadSeesLastWrite := by
  unfold Obligations.ReadSeesLastWrite
  intro s i j v rest hr hi hj hp
  refine ⟨_, (step_of_ready hr hp).trans (serve_writeBuf _ v hi), fun hji => ?_, fun v' hji hv' => ?_⟩
  · subst hji
    exact step_readBuf hr hj rfl (Memory.read_write_same s.buf j v)
  · exact step_readBuf hr hj rfl ((Memory.read_write_other s.buf i v hji).trans hv')

end Machine
end Sys2Proof

/-! PROOF. Decoding and encoding: R50's procedure and its mask match on the opcode rows are one relation between words and
instructions (decode_eq_ok_iff), from which each encodes what the other decodes. -/

namespace Sys2Proof
namespace Machine

/-! ### The opcode map and the opcode rows (R46) -/

/-- The opcode map is the table of the opcode rows. -/
theorem commandOf_eq_some_iff {op : BitVec 8} {mk : Nat → Bool → Bool → Instr} :
    commandOf op = some mk ↔ (op.setWidth 32, mk) ∈ opcodeRows := by
  constructor
  · intro h
    unfold commandOf at h
    split at h <;> cases h <;> simp [opcodeRows]
  · intro h
    have rows : ∀ row ∈ opcodeRows, commandOf (row.1.setWidth 8) = some row.2 := List.map_inj_left.mp rfl
    have hop := rows _ h
    rwa [BitVec.setWidth_setWidth_of_le _ (by decide), BitVec.setWidth_eq] at hop

/-- The code of a row is an operation code, RSV 0. -/
theorem opcodeRows_code : ∀ row ∈ opcodeRows, (row.1.setWidth 8).setWidth 32 = row.1 := by decide

theorem commandOf_opcode (i : Instr) : ∃ mk, commandOf i.opcode = some mk ∧ mk i.len i.ck i.nb = i := by
  cases i <;> exact ⟨_, rfl, rfl⟩

/-- The command of a row has the row's code, and the operand fields it is given. -/
theorem opcodeRows_fields : ∀ row ∈ opcodeRows, ∀ (len : Nat) (ck nb : Bool),
    (row.2 len ck nb).opcode.setWidth 32 = row.1 ∧ (row.2 len ck nb).len = len ∧ (row.2 len ck nb).ck = ck ∧
      (row.2 len ck nb).nb = nb := by
  simp [opcodeRows, Instr.opcode, Instr.len, Instr.ck, Instr.nb]

/-! ### The decoder as a match on the rows (R50) -/

theorem decode_eq_ok_iff_commandOf {w : CmdWord} {i : Instr} :
    decode w = .ok i ↔
      rsvField w = 0 ∧ ∃ mk, commandOf (opField w) = some mk ∧ i = mk (lenField w) (ckField w) (nbField w) := by
  by_cases hr : rsvField w = 0
  · rw [decode_of_rsv_zero hr]
    cases commandOf (opField w) <;> simp [hr, eq_comm]
  · rw [decode_of_rsv hr]
    exact iff_of_false (by simp) fun h => hr h.1

/-- A word decodes where its masked value is the code of a row, to the row's command with the word's LEN, CK and NB. -/
theorem decode_eq_ok_iff {w : CmdWord} {i : Instr} :
    decode w = .ok i ↔
      ∃ row ∈ opcodeRows, w &&& 0xFFFC00FF#32 = row.1 ∧ i = row.2 (lenField w) (ckField w) (nbField w) := by
  rw [decode_eq_ok_iff_commandOf]
  constructor
  · rintro ⟨hr, mk, hmk, hi⟩
    exact ⟨_, commandOf_eq_some_iff.mp hmk, (and_mask_eq_iff w _).mpr ⟨hr, rfl⟩, hi⟩
  · rintro ⟨row, hrow, hw, hi⟩
    have hcode := opcodeRows_code row hrow
    obtain ⟨hr, hop⟩ := (and_mask_eq_iff w (row.1.setWidth 8)).mp (hw.trans hcode.symm)
    refine ⟨hr, row.2, commandOf_eq_some_iff.mpr ?_, hi⟩
    rwa [hop, hcode]

/-! ### Encode and decode -/

theorem lenField_le (w : CmdWord) : lenField w ≤ 255 := by
  rw [lenField_eq]
  omega

/-- Settles O1: the word of an instruction matches the row of its operation code and gives back the fields it was built
from. -/
theorem decodeOfEncode : Obligations.DecodeOfEncode := by
  unfold Obligations.DecodeOfEncode
  intro i hi
  obtain ⟨mk, hmk, hfields⟩ := commandOf_opcode i
  refine decode_eq_ok_iff.mpr ⟨_, commandOf_eq_some_iff.mp hmk, wordOf_and_mask _ _ _ _, ?_⟩
  rw [encode, lenField_wordOf _ _ _ _ hi, ckField_wordOf, nbField_wordOf]
  exact hfields.symm

/-- Settles O2: the row a legal word matches fixes OP and RSV, its command carries LEN, CK and NB, and a word is determined
by these fields. -/
theorem encodeOfDecode : Obligations.EncodeOfDecode := by
  unfold Obligations.EncodeOfDecode
  intro w i h
  obtain ⟨row, hrow, hw, rfl⟩ := decode_eq_ok_iff.mp h
  obtain ⟨hcode, hlen, hck, hnb⟩ := opcodeRows_fields row hrow (lenField w) (ckField w) (nbField w)
  obtain ⟨hr, hop⟩ := (and_mask_eq_iff w _).mp (hw.trans hcode.symm)
  refine ⟨hlen.le.trans (lenField_le w), ?_⟩
  rw [encode, hlen, hck, hnb, ← hop]
  exact wordOf_fields w hr

/-- Settles O3: the decoder is the match on the rows, so a word that matches none has no instruction to decode to. -/
theorem rowsDecodeByMask : Obligations.RowsDecodeByMask := by
  unfold Obligations.RowsDecodeByMask
  refine ⟨fun row hrow w hw => decode_eq_ok_iff.mpr ⟨row, hrow, hw, ?_⟩, fun w hnone => ?_⟩
  · rw [lenField_eq, ckField, nbField]
  · cases hd : decode w with
    | ok i =>
      obtain ⟨row, hrow, hw, -⟩ := decode_eq_ok_iff.mp hd
      exact absurd hw (hnone row hrow)
    | error e => exact ⟨e, rfl⟩

/-- Settles O8: the decoder rejects the words R49 names (issue_of_illegal), and no command's effect is on STATUS
(exec_status). -/
theorem illegalWordSetsIll : Obligations.IllegalWordSetsIll := by
  unfold Obligations.IllegalWordSetsIll
  exact ⟨fun s _ hw => issue_of_illegal hw s, fun _ _ _ h => exec_status h⟩

/-! ### Words of the tables (R46, R52) and ignored fields (R48) -/

/-- Settles O4: each word evaluates. -/
theorem sampleWordsDecode : Obligations.SampleWordsDecode := by
  unfold Obligations.SampleWordsDecode
  decide

/-- Settles O5: each line's operands and word evaluate. -/
theorem pseudoInstructionWords : Obligations.PseudoInstructionWords := by
  unfold Obligations.PseudoInstructionWords
  decide

/-- Settles O6: the effect of each of these commands is stated without the fields it ignores. -/
theorem ignoredFieldsHaveNoEffect : Obligations.IgnoredFieldsHaveNoEffect := by
  unfold Obligations.IgnoredFieldsHaveNoEffect
  simp only [List.forall_mem_cons, List.not_mem_nil, false_imp_iff, implies_true, and_true]
  constructor
  · refine ⟨?makeA, ?makeP, ?makeR, ?validA, ?validP, ?validR, ?gethcA, ?gethcP, ?gethcR, ?getfP, ?getfR⟩ <;>
      exact fun _ _ _ _ _ _ s => exec_congr_effect (s := s) rfl
  · refine ⟨?crc7, ?decA, ?decP, ?decR⟩ <;> exact fun _ _ _ _ s => exec_congr_effect (s := s) rfl

end Machine
end Sys2Proof

/-! PROOF. Whitening of encoded frames (R66): a packed byte gives back the fields it was packed from, so fields in range keep
it from 0x00 and 0xFF; and the checksum of a frame with a type byte is never 0 and has 7 bits, or is 0x80. -/

namespace Sys2Proof
namespace Machine

/-! ### The packed bytes (R60, R62, R64) -/

/-- PollAndCommand byte 4 as a number (R60). -/
theorem toNat_packLight (lf : BitVec 2) (lt : BitVec 4) (lc : BitVec 2) :
    (packLight lf lt lc).toNat = lf.toNat * 64 + lt.toNat * 4 + lc.toNat := by
  have hlf := lf.isLt
  have hlt := lt.isLt
  have hlc := lc.isLt
  have h6 : (lf.setWidth 8 <<< 6).toNat = lf.toNat <<< 6 := by
    rw [BitVec.toNat_shiftLeft, BitVec.toNat_setWidth_of_le (by decide), Nat.shiftLeft_eq]
    omega
  have h2 : (lt.setWidth 8 <<< 2).toNat = lt.toNat <<< 2 := by
    rw [BitVec.toNat_shiftLeft, BitVec.toNat_setWidth_of_le (by decide), Nat.shiftLeft_eq]
    omega
  have hc : (lc.setWidth 8).toNat = lc.toNat := BitVec.toNat_setWidth_of_le (by decide)
  calc (packLight lf lt lc).toNat
    _ = lf.toNat <<< 6 ||| lt.toNat <<< 2 ||| lc.toNat := by
      rw [packLight, BitVec.toNat_or, BitVec.toNat_or, h6, h2, hc]
    _ = (lf.toNat <<< 4 + lt.toNat) <<< 2 + lc.toNat := by
      rw [Nat.shiftLeft_add_eq_or_of_lt hlc, Nat.shiftLeft_add_eq_or_of_lt hlt, Nat.shiftLeft_or_distrib,
        ← Nat.shiftLeft_add]
    _ = lf.toNat * 64 + lt.toNat * 4 + lc.toNat := by
      simp only [Nat.shiftLeft_eq]
      omega

@[simp] theorem storedHumidity_packHumidity (w s : Bool) (rh : BitVec 6) :
    storedHumidity (packHumidity w s rh) = rh + 1 := by
  have hw : (bitAt w 7).setWidth 6 = 0 := by cases w <;> rfl
  have hs : (bitAt s 6).setWidth 6 = 0 := by cases s <;> rfl
  have hrh : (rh.setWidth 8 + 1).setWidth 6 = rh + 1 := by
    rw [BitVec.setWidth_add _ _ (by decide), BitVec.setWidth_setWidth_of_le _ (by decide), BitVec.setWidth_eq]
    rfl
  rw [storedHumidity, ← BitVec.setWidth_eq_extractLsb' (by decide), packHumidity, BitVec.setWidth_or, BitVec.setWidth_or,
    hw, hs, hrh]
  simp

@[simp] theorem ambientLight_packAmbient (sy : Bool) (al : BitVec 6) : ambientLight (packAmbient sy al) = al := by
  have hsy : (bitAt sy 7).extractLsb' 1 6 = 0 := by cases sy <;> rfl
  have hal : (al.setWidth 8 <<< 1).extractLsb' 1 6 = al := by
    ext i hi
    have h8 : 1 + i < 8 := by omega
    simp [h8, BitVec.getLsbD_eq_getElem hi]
  rw [ambientLight, packAmbient, BitVec.extractLsb'_or, hsy, hal]
  simp

/-! ### Whitened bytes (R66) -/

/-- A byte that whitening allows on the wire. -/
abbrev Whitened (v : Byte) : Prop := v ≠ 0x00 ∧ v ≠ 0xFF

/-- A byte is whitened where some part of it differs from that part of 0x00 and from that part of 0xFF. -/
theorem whitened_of_part {α : Type} (part : Byte → α) {v : Byte} (h0 : part v ≠ part 0x00) (hF : part v ≠ part 0xFF) :
    Whitened v :=
  ⟨fun h => h0 (congrArg part h), fun h => hF (congrArg part h)⟩

theorem whitened_typeAlert : Whitened Config.typeAlert := by decide

theorem whitened_typePollCmd : Whitened Config.typePollCmd := by decide

theorem whitened_typePollResp : Whitened Config.typePollResp := by decide

theorem whitened_reservedByte : Whitened Config.reservedByte := by decide

/-- A value stored plus 1 (R59, R63). -/
theorem whitened_add_one {v : Byte} (h : v.toNat < 254) : Whitened (v + 1) := by
  unfold Whitened
  bv_omega

theorem whitened_packHumidity (w s : Bool) {rh : BitVec 6} (h : rh.toNat ≤ 50) : Whitened (packHumidity w s rh) := by
  refine whitened_of_part storedHumidity ?_ ?_ <;> rw [storedHumidity_packHumidity]
  · show rh + 1 ≠ 0
    bv_omega
  · show rh + 1 ≠ 0x3F
    bv_omega

theorem whitened_packAmbient (sy : Bool) {al : BitVec 6} (h1 : 1 ≤ al.toNat) (h62 : al.toNat ≤ 62) :
    Whitened (packAmbient sy al) := by
  refine whitened_of_part ambientLight ?_ ?_ <;> rw [ambientLight_packAmbient] <;> rintro rfl
  · exact absurd h1 (by decide)
  · exact absurd h62 (by decide)

theorem packLight_eq_0xFF_iff {lf lc : BitVec 2} {lt : BitVec 4} :
    packLight lf lt lc = 0xFF ↔ lf.toNat = 3 ∧ lt.toNat = 15 ∧ lc.toNat = 3 := by
  rw [← BitVec.toNat_inj, toNat_packLight]
  show _ = 255 ↔ _
  omega

/-! ### The checksum -/

theorem toNat_crcUpdate_le (p : Params) (c d : Byte) : (crcUpdate p c d).toNat ≤ 0x7F := by
  rw [crcUpdate, BitVec.toNat_and]
  exact Nat.and_le_right

theorem toNat_crcRaw_le (p : Params) (b : Payload) : (crcRaw p b).toNat ≤ 0x7F := toNat_crcUpdate_le p _ b.b6

/-- A checksum past its two zero tests (R72, R73) is a 7-bit register, or 0x80. -/
theorem whitened_checksum {b : Payload} (h : b.b0 ≠ 0) : Whitened (checksum Config.params b) := by
  rw [checksum, if_neg h]
  split
  · exact ⟨by decide, by decide⟩
  · next hraw => exact ⟨hraw, fun hF => absurd (hF ▸ toNat_crcRaw_le Config.params b) (by decide)⟩

/-! ### The frame of an accepted ENC.x -/

/-- The buffer an ENC.x leaves when it does not reject. -/
theorem encodeFrame_buf_of_res_ne_zero {p : Params} {b : Payload} {len : Nat} {ck nb : Bool} {s t : State}
    (h : encodeFrame p b len ck nb s = .next t) (hres : t.res ≠ 0x00) : t.buf = encodedBuf p b ck s.buf := by
  rw [encodeFrame_eq] at h
  split at h <;> cases h
  · exact absurd rfl hres
  · rfl

/-- The payload's bytes at the offsets as are whitened. -/
def WhitenedAt (b : Payload) (as : List Nat) : Prop := ∀ a ∈ as, ∃ x, b.byte a = some x ∧ Whitened x

/-- What an ENC.x that does not reject leaves in a byte of BUF, for a payload with a type byte: a payload byte, or a whitened
checksum. -/
theorem encodeFrame_byte {b : Payload} {len : Nat} {ck nb : Bool} {s t : State} {a : Nat} {v : Byte} (h0 : b.b0 ≠ 0)
    (h : encodeFrame Config.params b len ck nb s = .next t) (hres : t.res ≠ 0x00) (hv : Memory.read t.buf a = some v) :
    (∀ x, b.byte a = some x → v = x) ∧ (a = 7 ∧ ck = true → Whitened v) := by
  rw [encodeFrame_buf_of_res_ne_zero h hres, read_encodedBuf] at hv
  constructor
  · intro x hx
    have ha : a ≠ 7 := by
      rintro rfl
      cases hx
    rw [if_neg ha, hx] at hv
    exact (Option.some.inj hv).symm
  · rintro ⟨rfl, rfl⟩
    obtain rfl : checksum Config.params b = v := Option.some.inj hv
    exact whitened_checksum h0

/-- Whitening of a frame, from that of its payload at the offsets as; the house-code bytes are copied. -/
theorem encodeFrame_whitening {b : Payload} {len : Nat} {ck nb : Bool} {s t : State} {a : Nat} {v : Byte} {as : List Nat}
    (h0 : b.b0 ≠ 0) (hb : WhitenedAt b as) (h : encodeFrame Config.params b len ck nb s = .next t) (hres : t.res ≠ 0x00)
    (hv : Memory.read t.buf a = some v) :
    (a ∈ as ∨ (a = 7 ∧ ck = true) → Whitened v) ∧ (a = 1 → v = b.b1) ∧ (a = 2 → v = b.b2) := by
  obtain ⟨hpayload, hcheck⟩ := encodeFrame_byte h0 h hres hv
  refine ⟨fun ha => ha.elim (fun hmem => ?_) hcheck, fun h1 => hpayload _ (h1 ▸ rfl), fun h2 => hpayload _ (h2 ▸ rfl)⟩
  obtain ⟨x, hx, hwhite⟩ := hb a hmem
  rwa [hpayload x hx]

/-! ### The payloads -/

theorem whitenedAt_packAlert (x : Alert) : WhitenedAt (packAlert x) [0, 3, 4, 5, 6] := by
  simp only [WhitenedAt, List.forall_mem_cons, List.not_mem_nil, false_imp_iff, implies_true, and_true]
  exact ⟨⟨_, rfl, whitened_typeAlert⟩, ⟨_, rfl, whitened_reservedByte⟩, ⟨_, rfl, whitened_reservedByte⟩,
    ⟨_, rfl, whitened_reservedByte⟩, ⟨_, rfl, whitened_reservedByte⟩⟩

theorem whitenedAt_packPollCmd {x : PollCmd} (h : x.Legal) : WhitenedAt (packPollCmd x) [0, 3, 5, 6] := by
  have hrp : (x.rp.setWidth 8).toNat < 254 := by
    rw [BitVec.toNat_setWidth]
    omega
  simp only [WhitenedAt, List.forall_mem_cons, List.not_mem_nil, false_imp_iff, implies_true, and_true]
  exact ⟨⟨_, rfl, whitened_typePollCmd⟩, ⟨_, rfl, whitened_add_one hrp⟩, ⟨_, rfl, whitened_reservedByte⟩,
    ⟨_, rfl, whitened_reservedByte⟩⟩

theorem whitenedAt_packPollResp {x : PollResp} (h : x.Legal) : WhitenedAt (packPollResp x) [0, 3, 4, 5, 6] := by
  obtain ⟨hrh, htp, htr, hal1, hal62⟩ := h
  simp only [WhitenedAt, List.forall_mem_cons, List.not_mem_nil, false_imp_iff, implies_true, and_true]
  exact ⟨⟨_, rfl, whitened_typePollResp⟩, ⟨_, rfl, whitened_packHumidity x.w x.s hrh⟩,
    ⟨_, rfl, whitened_add_one (by omega)⟩, ⟨_, rfl, whitened_add_one (by omega)⟩,
    ⟨_, rfl, whitened_packAmbient x.sy hal1 hal62⟩⟩

/-- Settles O27: each variant's payload is whitened where R66 says so, and PollAndCommand's byte 4 is 0xFF where all its
bits are set. -/
theorem whiteningOfEncodedFrames : Obligations.WhiteningOfEncodedFrames := by
  unfold Obligations.WhiteningOfEncodedFrames
  intro len ck s t i a v hlegal hexec hres hv
  obtain ⟨hP, hR⟩ := hlegal
  refine ⟨?encA, ?encP, ?encR⟩ <;> rintro rfl
  case encA =>
    exact encodeFrame_whitening whitened_typeAlert.1 (whitenedAt_packAlert s.instA) hexec hres hv
  case encP =>
    have h0 : (packPollCmd s.instP).b0 ≠ 0 := whitened_typePollCmd.1
    obtain ⟨hwhite, h1, h2⟩ := encodeFrame_whitening h0 (whitenedAt_packPollCmd hP) hexec hres hv
    refine ⟨hwhite, fun h4 => ?_, h1, h2⟩
    rw [(encodeFrame_byte h0 hexec hres hv).1 (packPollCmd s.instP).b4 (h4 ▸ rfl)]
    exact packLight_eq_0xFF_iff
  case encR =>
    exact encodeFrame_whitening whitened_typePollResp.1 (whitenedAt_packPollResp hR) hexec hres hv

end Machine
end Sys2Proof

/-! PROOF. The CRC register as a polynomial over GF(2) (R69 to R71, R78): residues modulo G(x), the update on them, and the
remainder the register holds. -/

namespace Sys2Proof
namespace Machine

/-! ### Bytes as polynomials -/

section
open Polynomial

theorem coeff_bytePoly (v : Byte) (i : Nat) : (bytePoly v).coeff i = if v.getLsbD i then 1 else 0 := by
  have hterm (j : Nat) : (if v.getLsbD j then (X : (ZMod 2)[X]) ^ j else 0).coeff i =
      if i = j then (if v.getLsbD i then 1 else 0) else 0 := by
    by_cases hij : i = j
    · subst hij
      by_cases hv : v.getLsbD i <;> simp [hv]
    · by_cases hv : v.getLsbD j <;> simp [hv, hij, coeff_X_pow]
  rw [bytePoly, finsetSum_coeff, Finset.sum_congr rfl fun j _ => hterm j, Finset.sum_ite_eq]
  by_cases hi : i < 8
  · simp [hi]
  · simp [hi, BitVec.getLsbD_of_ge v i (by omega)]

theorem bytePoly_injective : Function.Injective bytePoly := by
  intro v w h
  refine BitVec.eq_of_getLsbD_eq fun i hi => ?_
  have hi := congrArg (fun q => q.coeff i) h
  simp only [coeff_bytePoly] at hi
  cases hv : v.getLsbD i <;> cases hw : w.getLsbD i <;> simp [hv, hw] at hi ⊢

@[simp] theorem bytePoly_zero : bytePoly 0 = 0 := by
  ext i
  simp [coeff_bytePoly]

/-- Addition over GF(2) is exclusive or. -/
theorem bytePoly_xor (v w : Byte) : bytePoly (v ^^^ w) = bytePoly v + bytePoly w := by
  ext i
  rw [coeff_add, coeff_bytePoly, coeff_bytePoly, coeff_bytePoly, BitVec.getLsbD_xor]
  cases v.getLsbD i <;> cases w.getLsbD i <;> simp [CharTwo.add_self_eq_zero]

theorem getLsbD_bit {k : Nat} (hk : k < 8) (i : Nat) : (1#8 <<< k).getLsbD i = decide (i = k) := by
  rw [BitVec.getLsbD_shiftLeft, BitVec.getLsbD_one, Bool.eq_iff_iff]
  simp only [Bool.and_eq_true, Bool.not_eq_true', decide_eq_true_eq, decide_eq_false_iff_not]
  omega

theorem bytePoly_bit {k : Nat} (hk : k < 8) : bytePoly (1#8 <<< k) = X ^ k := by
  ext i
  rw [coeff_bytePoly, getLsbD_bit hk, coeff_X_pow]
  simp

/-- The mask 0x7F keeps the seven low bits. -/
theorem getLsbD_and_0x7F (v : Byte) (i : Nat) : (v &&& 0x7F).getLsbD i = (decide (i < 7) && v.getLsbD i) := by
  have hmask : (0x7F#8).getLsbD i = decide (i < 7) := by
    by_cases hi : i < 8
    · revert i
      decide
    · rw [BitVec.getLsbD_of_ge _ _ (by omega), decide_eq_false (by omega)]
  rw [BitVec.getLsbD_and, Bool.and_comm]
  exact congrArg (· && v.getLsbD i) hmask

theorem degree_bytePoly_and_0x7F (v : Byte) : (bytePoly (v &&& 0x7F)).degree < 7 := by
  refine (degree_lt_iff_coeff_zero _ _).mpr fun i hi => ?_
  rw [coeff_bytePoly, getLsbD_and_0x7F, decide_eq_false (Nat.not_lt.mpr (Nat.cast_le.mp hi))]
  rfl

/-- Shifting the 7-bit register left multiplies it by x, but for the bit that leaves it. -/
theorem bytePoly_shiftLeft_and_0x7F (c : Byte) :
    bytePoly ((c <<< 1) &&& 0x7F) = X * bytePoly (c &&& 0x7F) + if c.getLsbD 6 then X ^ 7 else 0 := by
  have hout (i : Nat) : (if c.getLsbD 6 then (X : (ZMod 2)[X]) ^ 7 else 0).coeff i =
      if i = 7 ∧ c.getLsbD 6 then 1 else 0 := by
    cases c.getLsbD 6 <;> simp [coeff_X_pow]
  ext i
  rw [coeff_add, hout, coeff_bytePoly, getLsbD_and_0x7F, BitVec.getLsbD_shiftLeft]
  rcases i with _ | i
  · simp
  · rw [coeff_X_mul, coeff_bytePoly, getLsbD_and_0x7F]
    rcases Nat.lt_trichotomy i 6 with h | rfl | h
    · simp [h.ne, show i + 1 < 7 by omega, show i + 1 < 8 by omega, show i < 7 by omega]
    · simp [CharTwo.add_self_eq_zero]
    · simp [h.ne', show ¬ i + 1 < 7 by omega, show ¬ i < 7 by omega]

/-- G(x) is x^7 and CRC_POLY (R69). -/
theorem generator_eq : generator = X ^ 7 + bytePoly 0x37 := by
  have hbits : (0x37 : Byte) = 1#8 <<< 5 ^^^ 1#8 <<< 4 ^^^ 1#8 <<< 2 ^^^ 1#8 <<< 1 ^^^ 1#8 <<< 0 := by decide
  rw [hbits, bytePoly_xor, bytePoly_xor, bytePoly_xor, bytePoly_xor, bytePoly_bit (by decide), bytePoly_bit (by decide),
    bytePoly_bit (by decide), bytePoly_bit (by decide), bytePoly_bit (by decide), generator]
  ring

theorem generator_monic : generator.Monic := by
  unfold generator
  monicity!

theorem degree_generator : generator.degree = 7 := by
  unfold generator
  compute_degree!

/-! ### The register modulo G(x) -/

/-- The 7-bit register c as a residue modulo G(x). -/
noncomputable def residue (c : Byte) : AdjoinRoot generator := AdjoinRoot.mk generator (bytePoly (c &&& 0x7F))

/-- x modulo G(x). -/
noncomputable def xMod : AdjoinRoot generator := AdjoinRoot.mk generator X

theorem mk_X_pow (n : Nat) : AdjoinRoot.mk generator (X ^ n) = xMod ^ n := map_pow _ X n

theorem and_0x7F_inj_of_residue {v w : Byte} (h : residue v = residue w) : v &&& 0x7F = w &&& 0x7F := by
  refine bytePoly_injective (sub_eq_zero.mp (eq_zero_of_dvd_of_degree_lt (AdjoinRoot.mk_eq_mk.mp h) ?_))
  rw [degree_generator]
  exact (degree_sub_le _ _).trans_lt (max_lt (degree_bytePoly_and_0x7F v) (degree_bytePoly_and_0x7F w))

/-- The residues have characteristic 2, as the polynomials over GF(2) have. -/
theorem add_self_adjoinRoot (a : AdjoinRoot generator) : a + a = 0 := by
  obtain ⟨q, rfl⟩ := AdjoinRoot.mk_surjective a
  rw [← map_add, CharTwo.add_self_eq_zero, map_zero]

theorem residue_xor (v w : Byte) : residue (v ^^^ w) = residue v + residue w := by
  have hand : (v ^^^ w) &&& 0x7F = (v &&& 0x7F) ^^^ (w &&& 0x7F) := by
    refine BitVec.eq_of_getLsbD_eq fun i _ => ?_
    rw [BitVec.getLsbD_xor, getLsbD_and_0x7F, getLsbD_and_0x7F, getLsbD_and_0x7F, BitVec.getLsbD_xor,
      Bool.and_xor_distrib_left]
  rw [residue, hand, bytePoly_xor, map_add]
  rfl

/-- Shifted left, the register loses its bit 6, which counts x^7 from there. -/
theorem residue_shiftLeft (c : Byte) : residue (c <<< 1) = xMod * residue c + if c.getLsbD 6 then xMod ^ 7 else 0 := by
  rw [residue, bytePoly_shiftLeft_and_0x7F, map_add, map_mul, ← xMod]
  cases c.getLsbD 6 <;> simp [residue, mk_X_pow]

/-- CRC_POLY is x^7 modulo G(x) (R69). -/
theorem residue_crcPoly : residue Config.params.crcPoly = xMod ^ 7 := by
  have hG : xMod ^ 7 + residue 0x37 = 0 := by
    rw [← mk_X_pow, residue, ← map_add]
    exact AdjoinRoot.mk_eq_zero.mpr (generator_eq ▸ dvd_rfl)
  calc residue 0x37
    _ = xMod ^ 7 + xMod ^ 7 + residue 0x37 := by rw [add_self_adjoinRoot, zero_add]
    _ = xMod ^ 7 := by rw [add_assoc, hG, add_zero]

/-- One bit of the update multiplies the register by x and adds the data bit as x^7 (R69): CRC_POLY is added where the bit
that leaves the register and the data bit, each worth x^7, are not both 1. -/
theorem residue_crcBit (c : Byte) (d : Bool) :
    residue (crcBit Config.params c d) = xMod * residue c + if d then xMod ^ 7 else 0 := by
  have hx := add_self_adjoinRoot (xMod ^ 7)
  have hpoly := residue_crcPoly
  have hshift := residue_shiftLeft c
  rw [crcBit]
  generalize c.getLsbD 6 = out at hshift ⊢
  cases out <;> cases d <;> simp [residue_xor, hshift, hpoly, add_assoc, hx]

@[simp] theorem residue_and_0x7F (c : Byte) : residue (c &&& 0x7F) = residue c := by
  rw [residue, BitVec.and_assoc, BitVec.and_self, residue]

/-- One byte of the update (R69), as a polynomial. -/
theorem residue_crcUpdate (c d : Byte) :
    residue (crcUpdate Config.params c d) = xMod ^ 8 * residue c + xMod ^ 7 * AdjoinRoot.mk generator (bytePoly d) := by
  have hd : AdjoinRoot.mk generator (bytePoly d) = ∑ i ∈ Finset.range 8, if d.getLsbD i then xMod ^ i else 0 := by
    rw [bytePoly, map_sum]
    simp only [apply_ite (AdjoinRoot.mk generator), mk_X_pow, map_zero]
  have hbit (b : Bool) (n : Nat) : (if b then xMod ^ n else 0) = xMod ^ n * if b then 1 else 0 := by simp
  simp only [crcUpdate, residue_and_0x7F, List.foldl_cons, List.foldl_nil, residue_crcBit, hd,
    Finset.sum_range_succ, Finset.sum_range_zero, hbit]
  ring

/-- The fold over B[1..6] from the seed B[0] (R70, R71), as a polynomial (R78). -/
theorem residue_crcRaw (b : Payload) : residue (crcRaw Config.params b) =
    xMod ^ 48 * residue b.b0 + xMod ^ 7 * AdjoinRoot.mk generator (messagePoly b) := by
  simp only [crcRaw, List.foldl_cons, List.foldl_nil, residue_crcUpdate, messagePoly, map_add, map_mul, mk_X_pow]
  ring

/-- An update keeps 7 bits (R69). -/
theorem crcUpdate_and_0x7F (p : Params) (c d : Byte) : crcUpdate p c d &&& 0x7F = crcUpdate p c d := by
  rw [crcUpdate, BitVec.and_assoc, BitVec.and_self]

theorem crcRaw_and_0x7F (p : Params) (b : Payload) : crcRaw p b &&& 0x7F = crcRaw p b := crcUpdate_and_0x7F p _ b.b6

/-- Settles O10: the register and the dividend are one residue modulo G(x) (residue_crcRaw), and the register, of degree
below 7, is its own remainder. -/
theorem crcIsPolynomialRemainder : Obligations.CrcIsPolynomialRemainder := by
  unfold Obligations.CrcIsPolynomialRemainder
  intro b
  have hcongr : AdjoinRoot.mk generator (bytePoly (crcRaw Config.params b)) =
      AdjoinRoot.mk generator (bytePoly (b.b0 &&& 0x7F) * X ^ 48 + messagePoly b * X ^ 7) := by
    have h := residue_crcRaw b
    rw [residue, crcRaw_and_0x7F] at h
    rw [h, map_add, map_mul, map_mul, mk_X_pow, mk_X_pow, residue]
    ring
  have hdegree : (bytePoly (crcRaw Config.params b)).degree < generator.degree := by
    rw [degree_generator, ← crcRaw_and_0x7F]
    exact degree_bytePoly_and_0x7F _
  calc bytePoly (crcRaw Config.params b)
    _ = bytePoly (crcRaw Config.params b) %ₘ generator :=
      ((modByMonic_eq_self_iff generator_monic).mpr hdegree).symm
    _ = _ := modByMonic_eq_of_dvd_sub generator_monic (AdjoinRoot.mk_eq_mk.mp hcongr)

end

end Machine
end Sys2Proof

/-! PROOF. The CRC7 command (R72 to R76), the top bit of its seed (R77), and the commands that change RES only where they
fail (R112). -/

namespace Sys2Proof
namespace Machine

/-! ### The CRC7 command (R72 to R76) -/

theorem readPayload_payloadOf {m : Memory} {B : Nat → Byte} (h : HasBytes m 7 B) : readPayload m = .ok (payloadOf B) :=
  readPayload_eq_ok.mpr ⟨h 0 (by decide), h 1 (by decide), h 2 (by decide), h 3 (by decide), h 4 (by decide),
    h 5 (by decide), h 6 (by decide)⟩

/-- What CRC7 answers, RES and no other state, where the checksum function does. -/
theorem exec_crc7_of_ok {len : Nat} {nb : Bool} {s : State} {c : Byte} (ck : Bool)
    (h : crc7 Config.params len nb s.buf = .ok c) : exec (.crc7 len ck nb) s = .next { s with res := c } :=
  exec_eq_next_iff.mpr ⟨.answer c, congrArg (Except.map Effect.answer) h, rfl⟩

/-- Settles O11: crc7_cases names the three outcomes; each premise leaves one of them. -/
theorem crc7Result : Obligations.Crc7Result := by
  unfold Obligations.Crc7Result
  intro len ck nb s
  obtain ⟨hfail, hc⟩ | ⟨hnb, hlen, b, hb, hc⟩ | ⟨hnb, hlen, a, ha, hn, hc⟩ := crc7_cases Config.params len nb s.buf
  · refine ⟨fun _ => exec_crc7_of_ok ck hc, fun hnb hlen => ?_, fun hnb hlen => ?_⟩ <;>
      exact absurd hfail (by simp [hnb, hlen])
  · refine ⟨fun hfail => absurd hfail (by simp [hnb, hlen]), fun _ _ B hB => ?_, fun _ _ hs => ?_⟩
    · obtain rfl : payloadOf B = b := Except.ok.inj ((readPayload_payloadOf hB).symm.trans hb)
      exact exec_crc7_of_ok ck hc
    · obtain ⟨hspec, -⟩ | ⟨_, -, -, herr⟩ := readPayload_readsBelow s.buf
      · exact absurd hspec hs
      · cases herr.symm.trans hb
  · refine ⟨fun hfail => absurd hfail (by simp [hnb, hlen]), fun _ _ B hB => ?_, fun _ _ _ => ?_⟩
    · cases (hB a ha).symm.trans hn
    · exact ⟨a, ha, hn, exec_eq_fault (congrArg (Except.map Effect.answer) hc)⟩

/-- The checksum of a payload with a first byte is the raw register, or 0x80 for a zero register (R72, R76). -/
theorem checksum_range {b : Payload} (h : b.b0 ≠ 0) :
    (1 ≤ (checksum Config.params b).toNat ∧ (checksum Config.params b).toNat ≤ 0x7F) ∨
      checksum Config.params b = 0x80 := by
  rw [checksum, if_neg h]
  split
  · exact .inr rfl
  · next hraw => exact .inl ⟨Nat.one_le_iff_ne_zero.mpr fun h0 => hraw (BitVec.eq_of_toNat_eq h0), toNat_crcRaw_le _ b⟩

theorem checksum_of_zero_first_byte (p : Params) {b : Payload} (h : b.b0 = 0) : checksum p b = 0 := if_pos h

/-- Settles O12: the answer is 0x00 on a failed length check and the checksum of B[0..6] otherwise, whose range is
checksum_range and whitened_checksum. -/
theorem crc7ResultRange : Obligations.Crc7ResultRange := by
  unfold Obligations.Crc7ResultRange
  intro len ck nb s t h
  obtain ⟨hfail, hc⟩ | ⟨hnb, hlen, b, hb, hc⟩ | ⟨-, -, a, -, -, hc⟩ := crc7_cases Config.params len nb s.buf
  · cases (exec_crc7_of_ok ck hc).symm.trans h
    exact ⟨fun _ => rfl, fun hnb hlen => absurd hfail (by simp [hnb, hlen])⟩
  · cases (exec_crc7_of_ok ck hc).symm.trans h
    obtain ⟨h0, -⟩ := readPayload_eq_ok.mp hb
    constructor
    · rintro (hnb' | hlen' | hzero)
      · cases hnb.symm.trans hnb'
      · omega
      · exact checksum_of_zero_first_byte _ (Option.some.inj (h0.symm.trans hzero))
    · intro _ _ hne
      have hb0 : b.b0 ≠ 0 := fun hz => hne (hz ▸ h0)
      exact ⟨checksum_range hb0, whitened_checksum hb0⟩
  · cases (exec_eq_fault (i := .crc7 len ck nb) (congrArg (Except.map Effect.answer) hc)).symm.trans h

/-! ### Bit 7 of the seed (R77) -/

/-- The first bit of an update reads bit 6 of the register and shifts bit 7 out (R69). -/
theorem crcBit_xor_0x80 (p : Params) (c : Byte) (d : Bool) : crcBit p (c ^^^ 0x80) d = crcBit p c d := by
  have h6 : (c ^^^ 0x80).getLsbD 6 = c.getLsbD 6 := by
    rw [BitVec.getLsbD_xor]
    exact Bool.xor_false _
  have hshift : (c ^^^ 0x80) <<< 1 = c <<< 1 := by
    rw [BitVec.shiftLeft_xor_distrib]
    exact BitVec.xor_zero
  rw [crcBit, h6, hshift, crcBit]

theorem crcUpdate_xor_0x80 (p : Params) (c d : Byte) : crcUpdate p (c ^^^ 0x80) d = crcUpdate p c d := by
  simp only [crcUpdate, List.foldl_cons, crcBit_xor_0x80]

theorem crcRaw_xor_0x80 (p : Params) (b : Payload) : crcRaw p { b with b0 := b.b0 ^^^ 0x80 } = crcRaw p b := by
  simp only [crcRaw, List.foldl_cons, crcUpdate_xor_0x80]

/-- Settles O13: the register forgets bit 7 of the seed in its first update, so only the zero test reads it. -/
theorem seedTopBitHasNoEffect : Obligations.SeedTopBitHasNoEffect := by
  unfold Obligations.SeedTopBitHasNoEffect
  refine ⟨crcRaw_xor_0x80 _, fun b h0 h80 => ?_, fun b => ⟨checksum_of_zero_first_byte _ rfl, ?_⟩⟩
  · have hx : b.b0 ^^^ 0x80 ≠ 0 := fun h => h80 (BitVec.xor_eq_zero_iff.mp h)
    rw [checksum, if_neg hx, crcRaw_xor_0x80, checksum, if_neg h0]
  · exact (whitened_checksum (b := { b with b0 := 0x80 }) (by decide : (0x80 : Byte) ≠ 0)).1

/-! ### Failure (R112) -/

/-- An ENC.x that answers 0x00 has rejected, since a frame written answers 7 or 8 (R91, R96). -/
theorem encodeEffect_of_res_zero {b : Payload} {len : Nat} {ck nb : Bool} {m : Memory} {s : State}
    (h : ((encodeEffect b len ck nb m).apply s).res = 0x00) : encodeEffect b len ck nb m = .answer 0 := by
  unfold encodeEffect at h ⊢
  split
  · rfl
  · next hrej =>
    rw [if_neg hrej] at h
    cases ck with
    | false => exact absurd h (by decide : (7 : Byte) ≠ 0)
    | true => exact absurd h (by decide : (8 : Byte) ≠ 0)

/-- Settles O44: the effect of a CRC7 is an answer, and that of an ENC.x that answers 0x00 is too. -/
theorem failureChangesOnlyRes : Obligations.FailureChangesOnlyRes := by
  unfold Obligations.FailureChangesOnlyRes
  simp only [List.forall_mem_cons, List.not_mem_nil, false_imp_iff, implies_true, and_true]
  refine ⟨?crc7, ?encA, ?encP, ?encR⟩ <;> intro len ck nb s t h hres <;>
    obtain ⟨e, he, rfl⟩ := exec_eq_next_iff.mp h
  case crc7 =>
    obtain ⟨c, -, rfl⟩ := except_map_eq_ok.mp he
    exact congrArg s.setRes hres
  case encA | encP | encR =>
    obtain rfl := Except.ok.inj he
    rw [encodeEffect_of_res_zero hres]
    rfl

end Machine
end Sys2Proof

/-! PROOF. Error detection (R79): what up to three flipped bits do to the residue of a frame, and to a DEC.x of it. -/

namespace Sys2Proof
namespace Machine

/-! ### Powers of x modulo G(x) -/

theorem residue_bit {k : Nat} (hk : k < 7) : residue (1#8 <<< k) = xMod ^ k := by
  have hlow : ∀ k : Nat, k < 7 → (1#8 <<< k) &&& 0x7F = 1#8 <<< k := by decide
  rw [residue, hlow k hk, bytePoly_bit (by omega), mk_X_pow]

/-- A data byte of 0 multiplies the register by x^8. -/
theorem residue_eq_pow_add_eight {c c' : Byte} {n : Nat} (hc : residue c = xMod ^ n)
    (hupdate : crcUpdate Config.params c 0 = c') : residue c' = xMod ^ (n + 8) := by
  rw [← hupdate, residue_crcUpdate, hc, bytePoly_zero, map_zero, mul_zero, add_zero, pow_add, mul_comm]

theorem xMod_pow_sixty_three : xMod ^ 63 = 1 := by
  have h15 := residue_eq_pow_add_eight (c' := 0x34) residue_crcPoly (by decide)
  have h23 := residue_eq_pow_add_eight (c' := 0x31) h15 (by decide)
  have h31 := residue_eq_pow_add_eight (c' := 0x3E) h23 (by decide)
  have h39 := residue_eq_pow_add_eight (c' := 0x2F) h31 (by decide)
  have h47 := residue_eq_pow_add_eight (c' := 0x1C) h39 (by decide)
  have h55 := residue_eq_pow_add_eight (c' := 0x49) h47 (by decide)
  have h63 := residue_eq_pow_add_eight (c' := 1#8 <<< 0) h55 (by decide)
  exact h63.symm.trans ((residue_bit (by decide)).trans (pow_zero xMod))

/-- A power of x whose register is not 1 is not 1. -/
theorem xMod_pow_ne_one {c : Byte} {n : Nat} (hc : residue c = xMod ^ n) (hne : c &&& 0x7F ≠ 1) : xMod ^ n ≠ 1 := by
  intro h
  have hone : residue c = residue (1#8 <<< 0) := by rw [hc, h, residue_bit (by decide), pow_zero]
  exact hne (and_0x7F_inj_of_residue hone)

/-- The powers of x modulo G(x) repeat after 63, so those of the 55 bits of a frame differ. -/
theorem orderOf_xMod : orderOf xMod = 63 := by
  have h13 := residue_eq_pow_add_eight (c' := 0x0D) (residue_bit (k := 5) (by decide)) (by decide)
  have h21 := residue_eq_pow_add_eight (c' := 0x7A) h13 (by decide)
  have h9 := residue_eq_pow_add_eight (c' := 0x6B) (residue_bit (k := 1) (by decide)) (by decide)
  refine orderOf_eq_of_pow_and_pow_div_prime (by decide) xMod_pow_sixty_three fun q hq hdvd => ?_
  obtain h3 | h7 := (hq.dvd_mul (m := 3 ^ 2) (n := 7)).mp hdvd
  · obtain rfl : q = 3 := (Nat.prime_dvd_prime_iff_eq hq Nat.prime_three).mp (hq.dvd_of_dvd_pow h3)
    exact xMod_pow_ne_one h21 (by decide)
  · obtain rfl : q = 7 := (Nat.prime_dvd_prime_iff_eq hq (by decide)).mp h7
    exact xMod_pow_ne_one h9 (by decide)

/-- G(1) = 0: x + 1 divides G(x). -/
theorem generator_at_one : generator.eval₂ (RingHom.id (ZMod 2)) 1 = 0 := by
  simp only [generator, Polynomial.eval₂_add, Polynomial.eval₂_X_pow, Polynomial.eval₂_X, Polynomial.eval₂_one, one_pow]
  decide

/-- The value of a polynomial at 1, the parity of its number of terms; defined modulo G(x), since G(1) = 0. -/
noncomputable def parity : AdjoinRoot generator →+* ZMod 2 := AdjoinRoot.lift (RingHom.id _) 1 generator_at_one

theorem parity_xMod : parity xMod = 1 := (AdjoinRoot.lift_mk _ _).trans (Polynomial.eval₂_X _ _)

theorem parity_sum_pow (ps : List Nat) : parity (ps.map (xMod ^ ·)).sum = ps.length := by
  induction ps with
  | nil => exact map_zero _
  | cons p ps ih => simp [ih, parity_xMod, add_comm]

/-- No one, two or three of the first 55 powers of x add up to a multiple of G(x). -/
theorem sum_xMod_pow_ne_zero {ps : List Nat} (hnodup : ps.Nodup) (hne : ps ≠ []) (hlen : ps.length ≤ 3)
    (hlt : ∀ n ∈ ps, n < 55) : (ps.map (xMod ^ ·)).sum ≠ 0 := by
  intro h
  have hparity := parity_sum_pow ps
  rw [h, map_zero] at hparity
  match ps with
  | [a] => exact absurd hparity (by decide : (0 : ZMod 2) ≠ (1 : ℕ))
  | [a, b, c] => exact absurd hparity (by decide : (0 : ZMod 2) ≠ (3 : ℕ))
  | [a, b] =>
    have hab : xMod ^ a = xMod ^ b := by
      rw [List.map_cons, List.map_cons, List.map_nil, List.sum_cons, List.sum_singleton] at h
      exact (add_right_cancel (h.trans (add_self_adjoinRoot (xMod ^ b)).symm) :)
    have hlt63 : ∀ n ∈ [a, b], n ∈ Set.Iio (orderOf xMod) := fun n hn => by
      rw [orderOf_xMod]
      exact (hlt n hn).trans (by decide)
    have heq : a = b := pow_injOn_Iio_orderOf (hlt63 a (by simp)) (hlt63 b (by simp)) hab
    simp [heq] at hnodup

/-! ### The residue of a frame -/

/-- The checksum byte, taken to 7 bits, is the raw register: CRC_ZERO_ALT stands for a zero register (R72). -/
theorem residue_checksum {b : Payload} (h : b.b0 ≠ 0) :
    residue (checksum Config.params b) = residue (crcRaw Config.params b) := by
  rw [checksum, if_neg h]
  split
  · next hraw =>
    rw [hraw, ← residue_and_0x7F]
    rfl
  · rfl

/-- The raw register of bytes 0 to 6 with byte 7 added: 0 where the checksum agrees, and linear in the bits of the frame. -/
noncomputable def frameResidue (B : Nat → Byte) : AdjoinRoot generator :=
  residue (crcRaw Config.params (payloadOf B)) + residue (B 7)

theorem frameResidue_eq_zero {B : Nat → Byte} (h0 : B 0 ≠ 0x00) (h7 : B 7 = checksumOf B) : frameResidue B = 0 := by
  have hcheck : residue (checksumOf B) = residue (crcRaw Config.params (payloadOf B)) := residue_checksum h0
  rw [frameResidue, h7, hcheck, add_self_adjoinRoot]

/-- The power of x a bit of bytes 1 to 7 counts in the residue of a frame. -/
def bitPosition (e : Nat × Nat) : Nat := if e.1 = 7 then e.2 else 55 - 8 * e.1 + e.2

/-- What a bit of bytes 1 to 7 adds to the residue of a frame: nothing for bit 7 of the checksum byte, which the register
does not have. -/
noncomputable def bitResidue (e : Nat × Nat) : AdjoinRoot generator := if e = (7, 7) then 0 else xMod ^ bitPosition e

theorem residue_bit_eq_bitResidue {k : Nat} (hk : k < 8) : residue (1#8 <<< k) = bitResidue (7, k) := by
  by_cases h7 : k = 7
  · subst h7
    show AdjoinRoot.mk generator (bytePoly 0) = 0
    rw [bytePoly_zero, map_zero]
  · rw [residue_bit (by omega), bitResidue, if_neg (by simp [h7]), bitPosition, if_pos rfl]

theorem flipBit_of_ne (B : Nat → Byte) {e : Nat × Nat} {i : Nat} (h : e.1 ≠ i) : flipBit B e i = B i := if_neg h.symm

theorem bytePoly_flipBit (B : Nat → Byte) {i k : Nat} (hk : k < 8) (j : Nat) :
    bytePoly (flipBit B (i, k) j) = bytePoly (B j) + if j = i then Polynomial.X ^ k else 0 := by
  rw [flipBit]
  split
  · rw [bytePoly_xor, bytePoly_bit hk]
  · rw [add_zero]

/-- Bit k of B[i] is the coefficient of x^(8·(6 - i) + k) of M(x) (R78). -/
theorem messagePoly_flipBit (B : Nat → Byte) {i k : Nat} (hlo : 1 ≤ i) (hhi : i ≤ 6) (hk : k < 8) :
    messagePoly (payloadOf (flipBit B (i, k))) = messagePoly (payloadOf B) + Polynomial.X ^ (48 - 8 * i + k) := by
  simp only [messagePoly, bytePoly_flipBit B hk]
  interval_cases i <;> norm_num <;> ring

/-- A flipped bit of bytes 1 to 7 adds a power of x to the residue of the frame. -/
theorem frameResidue_flipBit (B : Nat → Byte) {e : Nat × Nat} (he : 1 ≤ e.1 ∧ e.1 ≤ 7 ∧ e.2 < 8) :
    frameResidue (flipBit B e) = frameResidue B + bitResidue e := by
  obtain ⟨i, k⟩ := e
  obtain ⟨hlo, hhi, hk⟩ : 1 ≤ i ∧ i ≤ 7 ∧ k < 8 := he
  by_cases hi : i = 7
  · subst hi
    have hcheck : flipBit B (7, k) 7 = B 7 ^^^ (1#8 <<< k) := rfl
    have hpayload : payloadOf (flipBit B (7, k)) = payloadOf B := rfl
    rw [frameResidue, hcheck, hpayload, residue_xor, residue_bit_eq_bitResidue hk, ← add_assoc, ← frameResidue]
  · have hfirst : (payloadOf (flipBit B (i, k))).b0 = (payloadOf B).b0 := flipBit_of_ne B (by omega : i ≠ 0)
    have hcheck : flipBit B (i, k) 7 = B 7 := flipBit_of_ne B hi
    have hbit : bitResidue (i, k) = xMod ^ 7 * xMod ^ (48 - 8 * i + k) := by
      rw [bitResidue, if_neg (fun h => hi (Prod.mk.inj h).1), bitPosition, if_neg hi, ← pow_add]
      congr 1
      omega
    rw [frameResidue, frameResidue, residue_crcRaw, residue_crcRaw, messagePoly_flipBit B hlo (by omega) hk, hfirst,
      hcheck, hbit, map_add, mk_X_pow]
    ring

/-! ### Error patterns -/

theorem flipBits_cons (B : Nat → Byte) (e : Nat × Nat) (pattern : List (Nat × Nat)) :
    flipBits B (e :: pattern) = flipBits (flipBit B e) pattern := rfl

/-- The residue of a frame is linear in the flipped bits. -/
theorem frameResidue_flipBits (B : Nat → Byte) (pattern : List (Nat × Nat))
    (hbits : ∀ e ∈ pattern, 1 ≤ e.1 ∧ e.1 ≤ 7 ∧ e.2 < 8) :
    frameResidue (flipBits B pattern) = frameResidue B + (pattern.map bitResidue).sum := by
  induction pattern generalizing B with
  | nil => exact (add_zero _).symm
  | cons e pattern ih =>
    obtain ⟨he, hrest⟩ := List.forall_mem_cons.mp hbits
    rw [flipBits_cons, ih _ hrest, frameResidue_flipBit B he, List.map_cons, List.sum_cons, add_assoc]

/-- The pattern without bit 7 of the checksum byte. -/
def registerBits (pattern : List (Nat × Nat)) : List (Nat × Nat) := pattern.filter (· ≠ (7, 7))

/-- Those bits add their powers of x. -/
theorem sum_bitResidue (pattern : List (Nat × Nat)) :
    (pattern.map bitResidue).sum = (((registerBits pattern).map bitPosition).map (xMod ^ ·)).sum := by
  induction pattern with
  | nil => rfl
  | cons e pattern ih =>
    rw [List.map_cons, List.sum_cons, ih, bitResidue, registerBits, registerBits, List.filter_cons]
    by_cases h : e = (7, 7) <;> simp [h]

theorem bitPosition_lt {e : Nat × Nat} (he : 1 ≤ e.1 ∧ e.1 ≤ 7 ∧ e.2 < 8) : bitPosition e < 55 := by
  unfold bitPosition
  split <;> omega

/-- Bit 7 of the checksum byte apart, the bits of bytes 1 to 7 count different powers of x. -/
theorem bitPosition_inj {e f : Nat × Nat} (he : 1 ≤ e.1 ∧ e.1 ≤ 7 ∧ e.2 < 8) (hf : 1 ≤ f.1 ∧ f.1 ≤ 7 ∧ f.2 < 8)
    (he7 : e ≠ (7, 7)) (hf7 : f ≠ (7, 7)) (h : bitPosition e = bitPosition f) : e = f := by
  obtain ⟨i, k⟩ := e
  obtain ⟨j, l⟩ := f
  simp only [ne_eq, Prod.mk.injEq, bitPosition] at *
  split at h <;> split at h <;> omega

/-- One to three flipped bits of bytes 1 to 7 change the residue of a frame, unless the one bit flipped is bit 7 of the
checksum byte. -/
theorem sum_bitResidue_ne_zero {pattern : List (Nat × Nat)} (h : ErrorPattern 1 pattern) (hne : pattern ≠ [(7, 7)]) :
    (pattern.map bitResidue).sum ≠ 0 := by
  obtain ⟨hnodup, hlen1, hlen3, hbits⟩ := h
  have hmem : ∀ e ∈ registerBits pattern, e ∈ pattern ∧ e ≠ (7, 7) := fun e he => by simpa [registerBits] using he
  rw [sum_bitResidue]
  refine sum_xMod_pow_ne_zero ?nodup ?ne ?len ?lt
  case nodup =>
    refine (hnodup.filter _).map_on fun e he f hf hef => ?_
    exact bitPosition_inj (hbits e (hmem e he).1) (hbits f (hmem f hf).1) (hmem e he).2 (hmem f hf).2 hef
  case ne =>
    intro hnil
    have hall : ∀ e ∈ pattern, e = (7, 7) := by simpa [registerBits] using hnil
    rw [List.eq_replicate_of_mem hall] at hnodup hne
    have hlen : pattern.length = 1 := le_antisymm (List.nodup_replicate.mp hnodup) hlen1
    exact hne (congrArg (List.replicate · (7, 7)) hlen)
  case len => exact (List.length_map _).trans_le ((List.length_filter_le _ _).trans hlen3)
  case lt =>
    intro n hn
    obtain ⟨e, he, rfl⟩ := List.mem_map.mp hn
    exact bitPosition_lt (hbits e (hmem e he).1)

/-- A pattern leaves the bytes it has no bit in. -/
theorem flipBits_of_forall_ne (B : Nat → Byte) {pattern : List (Nat × Nat)} {i : Nat} (h : ∀ e ∈ pattern, e.1 ≠ i) :
    flipBits B pattern i = B i := by
  induction pattern generalizing B with
  | nil => rfl
  | cons e pattern ih =>
    obtain ⟨he, hrest⟩ := List.forall_mem_cons.mp h
    rw [flipBits_cons, ih _ hrest, flipBit_of_ne B he]

/-- Settles O14: a checksum agrees where the residue of the frame is 0, and the flipped bits change the residue
(sum_bitResidue_ne_zero); flipped alone, bit 7 of the checksum byte changes the received checksum only. -/
theorem checksumDetectsThreeBitErrors : Obligations.ChecksumDetectsThreeBitErrors := by
  unfold Obligations.ChecksumDetectsThreeBitErrors
  intro B pattern h0 h7 hpattern hundetected
  have ⟨_, _, _, hbits⟩ := hpattern
  by_cases htop : pattern = [(7, 7)]
  · subst htop
    have hflip : B 7 ^^^ 0x80 = B 7 := (show B 7 ^^^ 0x80 = checksumOf B from hundetected).trans h7.symm
    exact absurd (xor_left_eq_self_iff.mp hflip) (by decide : (0x80 : Byte) ≠ 0)
  · have h0' : flipBits B pattern 0 ≠ 0x00 := by
      rwa [flipBits_of_forall_ne B fun e he => Nat.one_le_iff_ne_zero.mp (hbits e he).1]
    have hsum := frameResidue_flipBits B pattern hbits
    rw [frameResidue_eq_zero h0' hundetected, frameResidue_eq_zero h0 h7, zero_add] at hsum
    exact sum_bitResidue_ne_zero hpattern htop hsum.symm

/-! ### A corrupted frame in DEC.x -/

theorem getLsbD_flipBit (B : Nat → Byte) {e : Nat × Nat} {i k : Nat} (he : e.2 < 8) :
    (flipBit B e i).getLsbD k = ((B i).getLsbD k ^^ decide (e = (i, k))) := by
  obtain ⟨j, l⟩ := e
  unfold flipBit
  split
  · next h =>
    rw [BitVec.getLsbD_xor, getLsbD_bit he]
    simp [h, eq_comm]
  · next h => simp [Ne.symm h]

/-- A pattern of different bits flips each of its bits once. -/
theorem getLsbD_flipBits (B : Nat → Byte) {pattern : List (Nat × Nat)} {i k : Nat} (hnodup : pattern.Nodup)
    (hbits : ∀ e ∈ pattern, e.2 < 8) :
    (flipBits B pattern i).getLsbD k = ((B i).getLsbD k ^^ decide ((i, k) ∈ pattern)) := by
  induction pattern generalizing B with
  | nil => simp [flipBits]
  | cons e pattern ih =>
    obtain ⟨hnotin, hnodup⟩ := List.nodup_cons.mp hnodup
    obtain ⟨he, hrest⟩ := List.forall_mem_cons.mp hbits
    rw [flipBits_cons, ih _ hnodup hrest, getLsbD_flipBit B he]
    by_cases h : e = (i, k)
    · subst h
      simp [hnotin]
    · simp [h, Ne.symm h]

/-- A pattern with a bit in byte 0 changes byte 0: its bits, being different, do not cancel. -/
theorem flipBits_zero_ne {B : Nat → Byte} {pattern : List (Nat × Nat)} {k : Nat} (h : ErrorPattern 0 pattern)
    (hk : (0, k) ∈ pattern) : flipBits B pattern 0 ≠ B 0 := by
  obtain ⟨hnodup, -, -, hbits⟩ := h
  intro heq
  have hbit := getLsbD_flipBits B (i := 0) (k := k) hnodup fun e he => (hbits e he).2.2
  simp [heq, hk] at hbit

theorem readFrame_of_hasBytes {m : Memory} {B : Nat → Byte} (h : HasBytes m 8 B) :
    readFrame m = .ok { payload := payloadOf B, check := B 7 } :=
  readFrame_eq_ok.mpr ⟨readPayload_payloadOf fun i hi => h i (Nat.lt_succ_of_lt hi), h 7 (by decide)⟩

/-- DEC.x finds no message in a frame it accepts once one to three bits are flipped: the type check catches a flipped bit of
byte 0 (R101), the checksum any other (R79). -/
theorem validateFrame_flipBits {α : Type} {ty : Byte} {unpack : Payload → Option α} {x : α} {B : Nat → Byte}
    {pattern : List (Nat × Nat)} (hty : ty ≠ 0) (hpattern : ErrorPattern 0 pattern)
    (h : validateFrame Config.params ty unpack { payload := payloadOf B, check := B 7 } = some x) :
    validateFrame Config.params ty unpack
      { payload := payloadOf (flipBits B pattern), check := flipBits B pattern 7 } = none := by
  obtain ⟨h0, -, h7⟩ := validateFrame_eq_some.mp h
  refine Option.eq_none_iff_forall_ne_some.mpr fun y hy => ?_
  obtain ⟨h0', -, h7'⟩ := validateFrame_eq_some.mp hy
  by_cases hbyte0 : ∃ k, (0, k) ∈ pattern
  · obtain ⟨k, hk⟩ := hbyte0
    exact flipBits_zero_ne hpattern hk (h0'.trans h0.symm)
  · have hpattern1 : ErrorPattern 1 pattern := by
      obtain ⟨hnodup, hlen1, hlen3, hbits⟩ := hpattern
      refine ⟨hnodup, hlen1, hlen3, fun e he => ⟨Nat.one_le_iff_ne_zero.mpr fun hzero => hbyte0 ⟨e.2, ?_⟩, (hbits e he).2⟩⟩
      rwa [← hzero]
    exact checksumDetectsThreeBitErrors B pattern (fun hz => hty (h0.symm.trans hz)) h7 hpattern1 h7'

/-- The same of DEC.x's verdict on a BUF that holds the frame. -/
theorem decodeVerdict_flipBits {α : Type} {ty : Byte} {unpack : Payload → Option α} {len : Nat} {nb : Bool} {x : α}
    {m m' : Memory} {B : Nat → Byte} {pattern : List (Nat × Nat)} (hty : ty ≠ 0) (hm : HasBytes m 8 B)
    (hpattern : ErrorPattern 0 pattern) (hm' : HasBytes m' 8 (flipBits B pattern))
    (h : decodeVerdict Config.params ty unpack len nb m = .ok (some x)) :
    decodeVerdict Config.params ty unpack len nb m' = .ok none := by
  unfold decodeVerdict at h ⊢
  split at h
  · cases h
  · next hshort =>
    rw [if_neg hshort, readFrame_of_hasBytes hm']
    rw [readFrame_of_hasBytes hm] at h
    exact congrArg Except.ok (validateFrame_flipBits hty hpattern (Except.ok.inj h))

/-- A DEC.x that accepts a frame rejects it once one to three bits are flipped; what is said of valid then holds of the
message it leaves. -/
theorem exec_flipBits {α : Type} {i : Instr} {ty : Byte} {unpack : Payload → Option α} {write : α → Byte → Effect}
    {forced : State → α} {valid : State → Bool} {len : Nat} {nb : Bool} {s s' t : State} {B : Nat → Byte}
    {pattern : List (Nat × Nat)}
    (heffect : ∀ s, effect i s =
      (decodeVerdict Config.params ty unpack len nb s.buf).map (decodeEffect write (forced s)))
    (hres : ∀ x v s, ((write x v).apply s).res = v) (hvalid : ∀ v s, valid ((write (forced s) v).apply s) = false)
    (hty : ty ≠ 0) (hs : HasBytes s.buf 8 B) (hpattern : ErrorPattern 0 pattern)
    (hs' : HasBytes s'.buf 8 (flipBits B pattern)) (h : exec i s = .next t) (ht : t.res = 0x08) :
    ∃ t', exec i s' = .next t' ∧ t'.res = 0x00 ∧ valid t' = false := by
  obtain ⟨e, he, rfl⟩ := exec_eq_next_iff.mp h
  rw [heffect] at he
  obtain ⟨y, hy, rfl⟩ := except_map_eq_ok.mp he
  cases y with
  | none => exact absurd ((hres _ _ _).symm.trans ht) (by decide : (0 : Byte) ≠ 8)
  | some x =>
    have he' : effect i s' = .ok (write (forced s') 0) := by
      rw [heffect, decodeVerdict_flipBits hty hs hpattern hs' hy]
      rfl
    exact ⟨_, exec_eq_next_iff.mpr ⟨_, he', rfl⟩, hres _ _ _, hvalid 0 s'⟩

/-- Settles O15: each DEC.x rejects the flipped frame (exec_flipBits) and leaves the house code ForceInvalid wrote (R99,
R108). -/
theorem decodeRejectsThreeBitErrors : Obligations.DecodeRejectsThreeBitErrors := by
  unfold Obligations.DecodeRejectsThreeBitErrors
  intro s s' t B pattern len ck nb hs hpattern hs'
  refine ⟨?decA, ?decP, ?decR⟩
  case decA =>
    refine exec_flipBits (valid := fun s => s.instA.valid) (fun _ => rfl) (fun _ _ _ => rfl) (fun v s => ?_) (by decide)
      hs hpattern hs'
    simp [Effect.apply, Alert.valid, houseCodeValid]
  case decP =>
    refine exec_flipBits (valid := fun s => s.instP.valid) (fun _ => rfl) (fun _ _ _ => rfl) (fun v s => ?_) (by decide)
      hs hpattern hs'
    simp [Effect.apply, PollCmd.valid, houseCodeValid]
  case decR =>
    refine exec_flipBits (valid := fun s => s.instR.valid) (fun _ => rfl) (fun _ _ _ => rfl) (fun v s => ?_) (by decide)
      hs hpattern hs'
    simp [Effect.apply, PollResp.valid, houseCodeValid]

end Machine
end Sys2Proof

/-! PROOF. The contract commands (R80 to R88): what MAKE.x makes of each byte of ARG, what VALID.x answers, and the bytes
GETHC.x and GETF.x give out. Each command's outcome and frame are read off its effect; what remains is the value of each
field as a number. -/

namespace Sys2Proof
namespace Machine

/-! ### Values as numbers -/

/-- VALID as RES holds it (R17, R21). -/
theorem flagByte_houseCodeValid (a b : Byte) :
    flagByte (houseCodeValid a b) = if a ≠ 0xFF ∧ b ≠ 0xFF then 0x01 else 0x00 := by
  simp only [flagByte, houseCodeValid_iff]

/-- A flag of OUT is its value 0 or 1 (R68). -/
theorem toNat_of_eq_flagByte {v : Byte} {b : Bool} (h : v = flagByte b) : v.toNat = b.toNat := by
  subst h
  cases b <;> rfl

/-- A field given out as a byte keeps its value (R68). -/
theorem toNat_of_eq_setWidth {v : Byte} {k : Nat} {x : BitVec k} (hk : k ≤ 8) (h : v = x.setWidth 8) :
    v.toNat = x.toNat := by
  rw [h, BitVec.toNat_setWidth_of_le hk]

/-- A clamped byte keeps its value in a field of k bits that holds the upper bound. -/
theorem toNat_setWidth_clamp (v : Byte) {lo hi : Byte} {k : Nat} (h : lo.toNat ≤ hi.toNat) (hk : hi.toNat < 2 ^ k) :
    ((clamp v lo hi).setWidth k).toNat = max lo.toNat (min v.toNat hi.toNat) := by
  have hlt : (clamp v lo hi).toNat < 2 ^ k := Nat.lt_of_le_of_lt (clamp_bounds v lo hi h).2 hk
  rw [BitVec.toNat_setWidth, Nat.mod_eq_of_lt hlt, clamp_toNat h]

/-- A byte clamped to 0..hi. -/
theorem toNat_clamp_zero (v hi : Byte) : (clamp v 0 hi).toNat = min v.toNat hi.toNat :=
  (clamp_toNat (Nat.zero_le _)).trans (Nat.zero_max _)

theorem toNat_setWidth_clamp_zero (v : Byte) {hi : Byte} {k : Nat} (hk : hi.toNat < 2 ^ k) :
    ((clamp v 0 hi).setWidth k).toNat = min v.toNat hi.toNat :=
  (toNat_setWidth_clamp v (Nat.zero_le _) hk).trans (Nat.zero_max _)

/-- The mask of lc keeps the low two bits (R87). -/
theorem toNat_setWidth_and_three (v : Byte) : ((v &&& 0x3).setWidth 2).toNat = v.toNat % 4 := by
  have hmask : (v &&& 0x3).toNat = v.toNat % 4 := (BitVec.toNat_and v 3).trans (Nat.and_two_pow_sub_one_eq_mod v.toNat 2)
  rw [BitVec.toNat_setWidth, hmask]
  exact Nat.mod_mod _ 4

/-! ### Factories (R84 to R88) -/

/-- Settles O16: the effect of MAKE.A assigns INST_A and RES, and VALID of the new message is read off its house code. -/
theorem makeAlertResult : Obligations.MakeAlertResult := by
  unfold Obligations.MakeAlertResult
  intro len ck nb s
  have hexec : exec (.makeA len ck nb) s =
      .next ((s.setInstA (alertOfArg s.arg)).setRes (flagByte (alertOfArg s.arg).valid)) :=
    exec_eq_next_iff.mpr ⟨_, rfl, rfl⟩
  have hvalid := flagByte_houseCodeValid s.arg[0] s.arg[1]
  rw [hexec, ← hvalid]
  rfl

/-- Settles O17: MAKE.P assigns the message made from ARG, whose clamped fields all fit their widths. -/
theorem makePollCmdResult : Obligations.MakePollCmdResult := by
  unfold Obligations.MakePollCmdResult
  intro len ck nb s
  refine ⟨_, exec_eq_next_iff.mpr ⟨_, rfl, rfl⟩, rfl, fun _ => rfl, ?_⟩
  have hinst : ((s.setInstP (pollCmdOfArg s.arg)).setRes (flagByte (pollCmdOfArg s.arg).valid)).instP =
      pollCmdOfArg s.arg := State.setInstP_instP s _
  simp only [Effect.apply, hinst]
  exact ⟨rfl, rfl, toNat_setWidth_clamp_zero _ (by decide), toNat_setWidth_and_three _,
    toNat_setWidth_clamp _ (by decide) (by decide), toNat_setWidth_clamp _ (by decide) (by decide),
    flagByte_houseCodeValid _ _⟩

/-- Settles O18: MAKE.R assigns the message made from ARG, whose clamped fields all fit their widths. -/
theorem makePollRespResult : Obligations.MakePollRespResult := by
  unfold Obligations.MakePollRespResult
  intro len ck nb s
  refine ⟨_, exec_eq_next_iff.mpr ⟨_, rfl, rfl⟩, rfl, fun _ => rfl, ?_⟩
  have hinst : ((s.setInstR (pollRespOfArg s.arg)).setRes (flagByte (pollRespOfArg s.arg).valid)).instR =
      pollRespOfArg s.arg := State.setInstR_instR s _
  simp only [Effect.apply, hinst]
  exact ⟨rfl, rfl, toNat_setWidth_clamp_zero _ (by decide), toNat_clamp_zero _ _, toNat_clamp_zero _ _,
    toNat_setWidth_clamp _ (by decide) (by decide), boolOf_iff, boolOf_iff, boolOf_iff, flagByte_houseCodeValid _ _⟩

/-! ### Queries and accessors (R80 to R83) -/

/-- Settles O19: each VALID.x has the effect of answering the flag byte of its INST_x. -/
theorem validResult : Obligations.ValidResult := by
  unfold Obligations.ValidResult
  intro len ck nb s
  simp only [← flagByte_houseCodeValid]
  exact ⟨exec_eq_next_iff.mpr ⟨_, rfl, rfl⟩, exec_eq_next_iff.mpr ⟨_, rfl, rfl⟩, exec_eq_next_iff.mpr ⟨_, rfl, rfl⟩⟩

/-- A result file keeps every byte past the list written to it (R20, R68). -/
theorem getElem_writeBytes_past {n : Nat} (out : Vector Byte n) {vs : List Byte} {i : Nat} (hi : i < n)
    (h : vs.length ≤ i) : (writeBytes out vs)[i] = out[i] := by
  rw [getElem_writeBytes, List.getElem?_eq_none h, Option.getD_none]

/-- A command that gives out the bytes vs puts them in OUT[0..] and their number in RES, and keeps all else (R68). -/
theorem exec_of_outputEffect {i : Instr} {s : State} {vs : List Byte} (h : effect i s = .ok (outputEffect vs)) :
    ∃ t, exec i s = .next t ∧ t = { s with out := t.out, res := BitVec.ofNat 8 vs.length } ∧
      (∀ a, Memory.read t.buf a = Memory.read s.buf a) ∧
      (∀ (k : Fin 9) (v : Byte), vs[k.val]? = some v → t.out[k] = v) ∧
      ∀ k : Fin 9, vs.length ≤ k.val → t.out[k] = s.out[k] := by
  refine ⟨_, exec_eq_next_iff.mpr ⟨_, h, rfl⟩, rfl, fun _ => rfl, fun k v hv => ?_, fun k hk => ?_⟩
  · have hbyte := getElem_writeBytes s.out vs k.val k.isLt
    rwa [hv, Option.getD_some] at hbyte
  · exact getElem_writeBytes_past s.out k.isLt hk

/-- Settles O20: each GETHC.x gives out the two house-code bytes of its INST_x. -/
theorem getHouseCodeResult : Obligations.GetHouseCodeResult := by
  unfold Obligations.GetHouseCodeResult
  intro len ck nb s i hc1 hc2 hi
  have heffect : effect i s = .ok (outputEffect [hc1, hc2]) := by
    obtain ⟨rfl, rfl, rfl⟩ | ⟨rfl, rfl, rfl⟩ | ⟨rfl, rfl, rfl⟩ := hi <;> rfl
  obtain ⟨t, hexec, hframe, hbuf, hout, hkeep⟩ := exec_of_outputEffect heffect
  exact ⟨t, hexec, hframe, hbuf, hout 0 _ rfl, hout 1 _ rfl, hkeep⟩

/-- Settles O21: GETF.P gives out its four fields, each zero-extended to a byte, which keeps its value. -/
theorem getPollCmdFieldsResult : Obligations.GetPollCmdFieldsResult := by
  unfold Obligations.GetPollCmdFieldsResult
  intro len ck nb s
  obtain ⟨t, hexec, hframe, hbuf, hout, hkeep⟩ := exec_of_outputEffect (i := .getfP len ck nb) (s := s) rfl
  refine ⟨t, hexec, hframe, hbuf, ?rp, ?lc, ?lt, ?lf, hkeep⟩
  case rp => exact toNat_of_eq_setWidth (by decide) (hout 0 _ rfl)
  case lc => exact toNat_of_eq_setWidth (by decide) (hout 1 _ rfl)
  case lt => exact toNat_of_eq_setWidth (by decide) (hout 2 _ rfl)
  case lf => exact toNat_of_eq_setWidth (by decide) (hout 3 _ rfl)

/-- Settles O22: GETF.R gives out its seven fields, each zero-extended to a byte, and its flags as 0 or 1. -/
theorem getPollRespFieldsResult : Obligations.GetPollRespFieldsResult := by
  unfold Obligations.GetPollRespFieldsResult
  intro len ck nb s
  obtain ⟨t, hexec, hframe, hbuf, hout, hkeep⟩ := exec_of_outputEffect (i := .getfR len ck nb) (s := s) rfl
  refine ⟨t, hexec, hframe, hbuf, ?rh, hout 1 _ rfl, hout 2 _ rfl, ?al, ?s, ?w, ?sy, hkeep⟩
  case rh => exact toNat_of_eq_setWidth (by decide) (hout 0 _ rfl)
  case al => exact toNat_of_eq_setWidth (by decide) (hout 3 _ rfl)
  case s => exact toNat_of_eq_flagByte (hout 4 _ rfl)
  case w => exact toNat_of_eq_flagByte (hout 5 _ rfl)
  case sy => exact toNat_of_eq_flagByte (hout 6 _ rfl)

end Machine
end Sys2Proof

/-! PROOF. What ENC.x writes (R90 to R94) and that it does not read BUF (R97): the packer's payload is the spec's list of
bytes, and the whole result of an ENC.x with a payload is said once for the three variants. -/

namespace Sys2Proof
namespace Machine

/-! ### The result of an ENC.x (R90, R91) -/

theorem byte_payloadOf (P : Nat → Byte) {a : Nat} (h : a < 7) : (payloadOf P).byte a = some (P a) := by
  match a with
  | 0 | 1 | 2 | 3 | 4 | 5 | 6 => rfl
  | n + 7 => omega

theorem byte_eq_none (b : Payload) {a : Nat} (h : 7 ≤ a) : b.byte a = none := by
  match a with
  | 0 | 1 | 2 | 3 | 4 | 5 | 6 => omega
  | n + 7 => rfl

/-- A command that encodes the payload of the bytes P has the whole result R90 and R91 give an ENC.x of P. -/
theorem encodesTo_of_effect {i : Instr} {s : State} {len : Nat} {ck nb : Bool} {P : Nat → Byte}
    (h : effect i s = .ok (encodeEffect (payloadOf P) len ck nb s.buf)) : EncodesTo (exec i s) s len ck nb P := by
  have hexec : exec i s = .next ((encodeEffect (payloadOf P) len ck nb s.buf).apply s) :=
    exec_eq_next_iff.mpr ⟨_, h, rfl⟩
  rw [hexec, encodeEffect]
  constructor
  · intro hrej
    rw [if_pos (encodeRejected_iff.mpr hrej)]
    rfl
  · intro hnb h7 h8
    have hacc : ¬ encodeRejected len ck nb = true := by
      rw [encodeRejected_iff]
      rintro (hnb' | hlen | ⟨hck, hlen⟩)
      · exact absurd (hnb.symm.trans hnb') Bool.false_ne_true
      · omega
      · exact absurd (h8 hck) (by omega)
    rw [if_neg hacc]
    have hread := read_encodedBuf Config.params (payloadOf P) ck s.buf
    refine ⟨_, rfl, rfl, fun a ha => ?payload, hread 7, fun a ha => ?rest⟩
    case payload => exact (hread a).trans (by rw [if_neg (by omega), byte_payloadOf P ha, Option.some_or])
    case rest => exact (hread a).trans (by rw [if_neg (by omega), byte_eq_none _ (by omega), Option.none_or])

/-! ### The payloads as lists of bytes (R92 to R94) -/

theorem packAlert_eq (x : Alert) : packAlert x = payloadOf (alertBytes x) := rfl

/-- A field stored plus 1, modulo 256 (R9, R59). -/
theorem setWidth_add_one_eq_ofNat {k : Nat} (x : BitVec k) : x.setWidth 8 + 1 = BitVec.ofNat 8 (x.toNat + 1) := by
  rw [BitVec.ofNat_add, BitVec.ofNat_toNat]
  rfl

theorem packLight_eq_ofNat (lf : BitVec 2) (lt : BitVec 4) (lc : BitVec 2) :
    packLight lf lt lc = BitVec.ofNat 8 (lf.toNat * 64 + lt.toNat * 4 + lc.toNat) := by
  rw [← toNat_packLight, BitVec.ofNat_toNat, BitVec.setWidth_eq]

theorem packPollCmd_eq (x : PollCmd) : packPollCmd x = payloadOf (pollCmdBytes x) := by
  ext1
  case b3 => exact setWidth_add_one_eq_ofNat x.rp
  case b4 => exact packLight_eq_ofNat x.lf x.lt x.lc
  all_goals rfl

theorem packHumidity_eq (w s : Bool) (rh : BitVec 6) :
    packHumidity w s rh =
      (if w then 0x80 else 0x00) ||| (if s then 0x40 else 0x00) ||| BitVec.ofNat 8 (rh.toNat + 1) := by
  rw [packHumidity, setWidth_add_one_eq_ofNat]
  cases w <;> cases s <;> rfl

theorem packAmbient_eq (sy : Bool) (al : BitVec 6) :
    packAmbient sy al = (if sy then 0x80 else 0x00) ||| BitVec.ofNat 8 (al.toNat * 2) := by
  have hal : al.setWidth 8 <<< 1 = BitVec.ofNat 8 (al.toNat * 2) := by
    rw [BitVec.shiftLeft_eq_mul_twoPow, BitVec.ofNat_mul, BitVec.ofNat_toNat]
    rfl
  rw [packAmbient, hal]
  cases sy <;> rfl

theorem packPollResp_eq (x : PollResp) : packPollResp x = payloadOf (pollRespBytes x) := by
  ext1
  case b3 => exact packHumidity_eq x.w x.s x.rh
  case b4 => exact (congrArg (· + 1) (BitVec.setWidth_eq x.tp).symm).trans (setWidth_add_one_eq_ofNat x.tp)
  case b5 => exact (congrArg (· + 1) (BitVec.setWidth_eq x.tr).symm).trans (setWidth_add_one_eq_ofNat x.tr)
  case b6 => exact packAmbient_eq x.sy x.al
  all_goals rfl

/-! ### What each ENC.x writes, where it is rejected, and its frame -/

/-- Settles O23: ENC.A encodes the payload packed from INST_A. -/
theorem encodeAlertResult : Obligations.EncodeAlertResult := by
  unfold Obligations.EncodeAlertResult
  intro len ck nb s
  apply encodesTo_of_effect
  rw [← packAlert_eq]
  rfl

/-- Settles O24: ENC.P encodes the payload packed from INST_P. -/
theorem encodePollCmdResult : Obligations.EncodePollCmdResult := by
  unfold Obligations.EncodePollCmdResult
  intro len ck nb s
  apply encodesTo_of_effect
  rw [← packPollCmd_eq]
  rfl

/-- Settles O25: ENC.R encodes the payload packed from INST_R. -/
theorem encodePollRespResult : Obligations.EncodePollRespResult := by
  unfold Obligations.EncodePollRespResult
  intro len ck nb s
  apply encodesTo_of_effect
  rw [← packPollResp_eq]
  rfl

/-! ### The prior content of BUF (R97) -/

/-- The same bytes encoded over two buffers: R90 and R91 fix RES and every written byte from LEN, CK, NB and the bytes
alone. -/
theorem EncodesTo.ignores_prior_buf {r r' : Result} {s : State} {m : Memory} {len : Nat} {ck nb : Bool} {P : Nat → Byte}
    (h : EncodesTo r s len ck nb P) (h' : EncodesTo r' { s with buf := m } len ck nb P) :
    ∃ t u, r = .next t ∧ r' = .next u ∧ u = { t with buf := u.buf } ∧
      (t.res ≠ 0x00 → ∀ a, a < t.res.toNat → ∃ v, Memory.read t.buf a = some v ∧ Memory.read u.buf a = some v) := by
  obtain ⟨hrejected, haccepted⟩ := h
  obtain ⟨hrejected', haccepted'⟩ := h'
  by_cases hrej : nb = true ∨ len < 7 ∨ (ck = true ∧ len < 8)
  · exact ⟨_, _, hrejected hrej, hrejected' hrej, rfl, fun hres => absurd rfl hres⟩
  · have hnb : nb = false := Bool.eq_false_of_not_eq_true fun hnb => hrej (.inl hnb)
    have h7 : 7 ≤ len := by omega
    have h8 : ck = true → 8 ≤ len := fun hck => Nat.le_of_not_lt fun hlen => hrej (.inr (.inr ⟨hck, hlen⟩))
    obtain ⟨t, hr, ht, hbytes, hcheck, -⟩ := haccepted hnb h7 h8
    obtain ⟨u, hr', hu, hbytes', hcheck', -⟩ := haccepted' hnb h7 h8
    refine ⟨t, u, hr, hr', by rw [hu, ht], fun _ a ha => ?_⟩
    have hres : t.res = if ck then 0x08 else 0x07 := congrArg State.res ht
    rw [hres] at ha
    by_cases ha7 : a < 7
    · exact ⟨P a, hbytes a ha7, hbytes' a ha7⟩
    · cases ck with
      | false => exact absurd ha ha7
      | true =>
        obtain rfl : a = 7 := Nat.le_antisymm (Nat.le_of_lt_succ ha) (Nat.le_of_not_lt ha7)
        exact ⟨checksumOf P, hcheck, hcheck'⟩

/-- Settles O26: the payload of each ENC.x does not depend on BUF, and it fixes the answer and the bytes written. -/
theorem encodeIgnoresPriorBuf : Obligations.EncodeIgnoresPriorBuf := by
  unfold Obligations.EncodeIgnoresPriorBuf
  simp only [List.forall_mem_cons, List.not_mem_nil, false_imp_iff, implies_true, and_true]
  refine ⟨?encA, ?encP, ?encR⟩ <;> intro len ck nb s m
  case encA => exact (encodeAlertResult len ck nb s).ignores_prior_buf (encodeAlertResult len ck nb _)
  case encP => exact (encodePollCmdResult len ck nb s).ignores_prior_buf (encodePollCmdResult len ck nb _)
  case encR => exact (encodePollRespResult len ck nb s).ignores_prior_buf (encodePollRespResult len ck nb _)

end Machine
end Sys2Proof

/-! PROOF. What DEC.x does (R98 to R110): the fields of a wire payload as numbers, the message a frame carries, and the
result of a DEC.x on every buffer, said once for the three variants. -/

namespace Sys2Proof
namespace Machine

/-! ### The fields of a wire byte as numbers (R60, R62, R64) -/

section
variable (v : Byte)

theorem toNat_lightFlash : (lightFlash v).toNat = v.toNat / 64 := by
  rw [lightFlash, BitVec.extractLsb'_toNat, Nat.shiftRight_eq_div_pow]
  omega

theorem toNat_lightOnTime : (lightOnTime v).toNat = v.toNat / 4 % 16 := by
  rw [lightOnTime, BitVec.extractLsb'_toNat, Nat.shiftRight_eq_div_pow]

theorem toNat_lightColour : (lightColour v).toNat = v.toNat % 4 := by
  rw [lightColour, BitVec.extractLsb'_toNat, Nat.shiftRight_zero]

theorem toNat_storedHumidity : (storedHumidity v).toNat = v.toNat % 64 := by
  rw [storedHumidity, BitVec.extractLsb'_toNat, Nat.shiftRight_zero]

theorem toNat_ambientLight : (ambientLight v).toNat = v.toNat / 2 % 64 := by
  rw [ambientLight, BitVec.extractLsb'_toNat, Nat.shiftRight_eq_div_pow]

/-- A flag bit is its value 0 or 1. -/
theorem toNat_getLsbD (k : Nat) : (v.getLsbD k).toNat = v.toNat / 2 ^ k % 2 := Nat.toNat_testBit v.toNat k

end

/-! ### The message on the wire (R103 to R105) -/

/-- The Alert of a payload (R103). -/
def wireAlert (b : Payload) : Alert := { hc1 := b.b1, hc2 := b.b2 }

/-- The PollAndCommand of a payload (R104). -/
def wirePollCmd (b : Payload) : PollCmd :=
  { hc1 := b.b1, hc2 := b.b2, rp := (b.b3 - 1).setWidth 7, lc := lightColour b.b4
    lt := lightOnTime b.b4, lf := lightFlash b.b4 }

/-- The PollResponse of a payload (R105). -/
def wirePollResp (b : Payload) : PollResp :=
  { hc1 := b.b1, hc2 := b.b2, rh := storedHumidity b.b3 - 1, tp := b.b4 - 1, tr := b.b5 - 1
    al := ambientLight b.b6, s := b.b3.getLsbD 6, w := b.b3.getLsbD 7, sy := b.b6.getLsbD 7 }

section
variable {b : Payload}

theorem unpackAlert_eq_some {p : Params} {x : Alert} :
    unpackAlert p b = some x ↔
      (b.b3 = 0x01 ∧ (p.alertCheckAllRes = true → b.b4 = 0x01 ∧ b.b5 = 0x01 ∧ b.b6 = 0x01)) ∧ x = wireAlert b := by
  simp only [unpackAlert, Option.ite_none_left_eq_some, Option.some.injEq, ne_eq, not_not, eq_comm (a := x), wireAlert,
    Config.reservedByte]
  tauto

theorem unpackPollCmd_eq_some {p : Params} {x : PollCmd} :
    unpackPollCmd p b = some x ↔
      (1 ≤ b.b3.toNat ∧ b.b3.toNat ≤ 101 ∧ b.b4.toNat / 64 ≠ 0 ∧ b.b4.toNat / 4 % 16 ≠ 0 ∧ b.b5 = 0x01 ∧
        (p.pacCheckRes2 = true → b.b6 = 0x01)) ∧ x = wirePollCmd b := by
  have hb3 : ¬ (b.b3 = 0 ∨ b.b3 > 101) ↔ 1 ≤ b.b3.toNat ∧ b.b3.toNat ≤ 101 := by bv_omega
  have hlf : lightFlash b.b4 = 0 ↔ b.b4.toNat / 64 = 0 := by rw [← toNat_lightFlash]; bv_omega
  have hlt : lightOnTime b.b4 = 0 ↔ b.b4.toNat / 4 % 16 = 0 := by rw [← toNat_lightOnTime]; bv_omega
  simp only [unpackPollCmd, Option.ite_none_left_eq_some, Option.some.injEq, hb3, hlf, hlt, ne_eq, eq_comm (a := x),
    wirePollCmd, Config.reservedByte]
  tauto

theorem unpackPollResp_eq_some {x : PollResp} :
    unpackPollResp b = some x ↔
      (1 ≤ b.b3.toNat % 64 ∧ b.b3.toNat % 64 ≤ 51 ∧ 1 ≤ b.b4.toNat ∧ b.b4.toNat ≤ 200 ∧ 1 ≤ b.b5.toNat ∧
        b.b5.toNat ≤ 200 ∧ 1 ≤ b.b6.toNat / 2 % 64 ∧ b.b6.toNat / 2 % 64 ≤ 62) ∧ x = wirePollResp b := by
  have hrh : ¬ (storedHumidity b.b3 = 0 ∨ storedHumidity b.b3 > 51) ↔
      1 ≤ b.b3.toNat % 64 ∧ b.b3.toNat % 64 ≤ 51 := by rw [← toNat_storedHumidity]; bv_omega
  have htp : ¬ (b.b4 = 0 ∨ b.b4 > 200) ↔ 1 ≤ b.b4.toNat ∧ b.b4.toNat ≤ 200 := by bv_omega
  have htr : ¬ (b.b5 = 0 ∨ b.b5 > 200) ↔ 1 ≤ b.b5.toNat ∧ b.b5.toNat ≤ 200 := by bv_omega
  have hal : ¬ (ambientLight b.b6 = 0 ∨ ambientLight b.b6 = 0x3F) ↔
      1 ≤ b.b6.toNat / 2 % 64 ∧ b.b6.toNat / 2 % 64 ≤ 62 := by rw [← toNat_ambientLight]; bv_omega
  simp only [unpackPollResp, Option.ite_none_left_eq_some, Option.some.injEq, hrh, htp, htr, hal, and_assoc,
    eq_comm (a := x), wirePollResp]

end

/-! ### The result of a DEC.x (R98 to R102, R108, R110) -/

/-- What R98 to R102 and R110 say of a DEC.x whose checks past the length are Ok: rejected with RES 0x00, accepted with RES
0x08, or stuck on an unspecified byte. -/
def DecodesTo (r : Result) (s : State) (len : Nat) (nb : Bool) (Ok : (Nat → Byte) → Prop) (rejected : State)
    (accepted : Payload → State) : Prop :=
  ((nb = true ∨ len < 8) → r = .next (rejected.setRes 0x00)) ∧
  (nb = false → 8 ≤ len → ∀ B, HasBytes s.buf 8 B →
    (Ok B → r = .next ((accepted (payloadOf B)).setRes 0x08)) ∧ (¬ Ok B → r = .next (rejected.setRes 0x00))) ∧
  (nb = false → 8 ≤ len → ¬ Specified 8 s.buf → StuckBelow r s 8)

theorem not_bufferShort_iff {n len : Nat} {nb : Bool} : ¬ bufferShort n len nb = true ↔ nb = false ∧ n ≤ len := by
  simp [bufferShort]

/-- A written buffer has bytes. -/
theorem exists_hasBytes {n : Nat} {m : Memory} (h : Specified n m) : ∃ B, HasBytes m n B :=
  ⟨fun i => (Memory.read m i).getD 0, fun i hi => by
    obtain ⟨v, hv⟩ := Option.isSome_iff_exists.mp (h i hi)
    simp [hv]⟩

section
variable {α : Type} {p : Params} {ty : Byte} {unpack : Payload → Option α} {len : Nat} {nb : Bool}

theorem decodeVerdict_of_short {m : Memory} (h : nb = true ∨ len < 8) :
    decodeVerdict p ty unpack len nb m = .ok none := if_pos (bufferShort_iff.mpr h)

theorem decodeVerdict_of_hasBytes {m : Memory} {B : Nat → Byte} (hnb : nb = false) (hlen : 8 ≤ len)
    (hB : HasBytes m 8 B) :
    decodeVerdict p ty unpack len nb m = .ok (validateFrame p ty unpack { payload := payloadOf B, check := B 7 }) := by
  rw [decodeVerdict, if_neg (not_bufferShort_iff.mpr ⟨hnb, hlen⟩), readFrame_of_hasBytes hB]
  rfl

theorem decodeVerdict_of_unspecified {m : Memory} (hnb : nb = false) (hlen : 8 ≤ len) (h : ¬ Specified 8 m) :
    ∃ a, a < 8 ∧ Memory.read m a = none ∧ decodeVerdict p ty unpack len nb m = .error (.unspecifiedByte a) := by
  have hreads := decodeVerdict_readsBelow p ty unpack len nb m
  rw [if_neg (not_bufferShort_iff.mpr ⟨hnb, hlen⟩)] at hreads
  exact hreads.resolve_left fun hs => h hs.1

/-- The state machine of DEC.x, from what a frame's checks say (R98). -/
theorem decodeFrame_decodesTo {force : State → State} {assign : State → α → State} {s : State}
    {Ok : (Nat → Byte) → Prop} {message : Payload → α}
    (hvalid : ∀ B x, validateFrame p ty unpack { payload := payloadOf B, check := B 7 } = some x ↔
      Ok B ∧ x = message (payloadOf B))
    (hassign : ∀ x, assign (force s) x = assign s x) :
    DecodesTo (decodeFrame p ty unpack force assign len nb s) s len nb Ok (force s) (fun b => assign s (message b)) := by
  unfold DecodesTo
  rw [decodeFrame_eq]
  refine ⟨fun hshort => ?short, fun hnb hlen B hB => ⟨fun hok => ?accepted, fun hbad => ?rejected⟩,
    fun hnb hlen hs => ?stuck⟩
  case short => rw [decodeVerdict_of_short hshort]
  case accepted =>
    rw [decodeVerdict_of_hasBytes hnb hlen hB, (hvalid B _).mpr ⟨hok, rfl⟩]
    exact congrArg (fun t : State => Host.Outcome.next (t.setRes 0x08)) (hassign _)
  case rejected =>
    have hnone : validateFrame p ty unpack { payload := payloadOf B, check := B 7 } = none :=
      Option.eq_none_iff_forall_ne_some.mpr fun x hx => hbad ((hvalid B x).mp hx).1
    rw [decodeVerdict_of_hasBytes hnb hlen hB, hnone]
  case stuck =>
    obtain ⟨a, ha, hn, hv⟩ := decodeVerdict_of_unspecified (p := p) (ty := ty) (unpack := unpack) hnb hlen hs
    exact ⟨a, ha, hn, by rw [hv]⟩

end

/-! ### The three variants -/

section
variable (len : Nat) (ck nb : Bool) (s : State)

theorem decA_decodesTo :
    DecodesTo (exec (.decA len ck nb) s) s len nb AlertFrameOk (forceInvalidA s) (fun b => s.setInstA (wireAlert b)) := by
  refine decodeFrame_decodesTo (fun B x => ?_) (forceInvalidA_setInstA s)
  rw [validateFrame_eq_some, unpackAlert_eq_some, AlertFrameOk, checksumOf]
  tauto

theorem decP_decodesTo :
    DecodesTo (exec (.decP len ck nb) s) s len nb PollCmdFrameOk (forceInvalidP s)
      (fun b => s.setInstP (wirePollCmd b)) := by
  refine decodeFrame_decodesTo (fun B x => ?_) (forceInvalidP_setInstP s)
  rw [validateFrame_eq_some, unpackPollCmd_eq_some, PollCmdFrameOk, checksumOf]
  tauto

theorem decR_decodesTo :
    DecodesTo (exec (.decR len ck nb) s) s len nb PollRespFrameOk (forceInvalidR s)
      (fun b => s.setInstR (wirePollResp b)) := by
  refine decodeFrame_decodesTo (fun B x => ?_) (forceInvalidR_setInstR s)
  rw [validateFrame_eq_some, unpackPollResp_eq_some, PollRespFrameOk, checksumOf]
  tauto

end

/-- Settles O28: decA_decodesTo, with the message of the frame and ForceInvalid's house code written out. -/
theorem decodeAlertResult : Obligations.DecodeAlertResult := by
  unfold Obligations.DecodeAlertResult
  exact decA_decodesTo

/-- Settles O29: decP_decodesTo, with the fields of the frame's message as numbers. -/
theorem decodePollCmdResult : Obligations.DecodePollCmdResult := by
  unfold Obligations.DecodePollCmdResult
  intro len ck nb s
  obtain ⟨hshort, hframe, hstuck⟩ := decP_decodesTo len ck nb s
  refine ⟨hshort, fun hnb hlen B hB => ⟨fun hok => ?_, (hframe hnb hlen B hB).2⟩, hstuck⟩
  have hexec := (hframe hnb hlen B hB).1 hok
  obtain ⟨-, h1, h101, -⟩ := hok
  have hrp : ((B 3 - 1).setWidth 7).toNat = (B 3).toNat - 1 := by
    rw [BitVec.toNat_setWidth]
    bv_omega
  exact ⟨wirePollCmd (payloadOf B), hexec, rfl, rfl, hrp, toNat_lightFlash (B 4),
    toNat_lightOnTime (B 4), toNat_lightColour (B 4)⟩

/-- Settles O30: decR_decodesTo, with the fields of the frame's message as numbers. -/
theorem decodePollRespResult : Obligations.DecodePollRespResult := by
  unfold Obligations.DecodePollRespResult
  intro len ck nb s
  obtain ⟨hshort, hframe, hstuck⟩ := decR_decodesTo len ck nb s
  refine ⟨hshort, fun hnb hlen B hB => ⟨fun hok => ?_, (hframe hnb hlen B hB).2⟩, hstuck⟩
  have hexec := (hframe hnb hlen B hB).1 hok
  obtain ⟨-, hrh, -, htp, -, htr, -⟩ := hok
  have hrh' : (storedHumidity (B 3) - 1).toNat = (B 3).toNat % 64 - 1 := by
    rw [← toNat_storedHumidity] at hrh ⊢
    bv_omega
  have htp' : (B 4 - 1).toNat = (B 4).toNat - 1 := by bv_omega
  have htr' : (B 5 - 1).toNat = (B 5).toNat - 1 := by bv_omega
  have hbit7 (v : Byte) : (v.getLsbD 7).toNat = v.toNat / 128 := by
    rw [toNat_getLsbD]
    omega
  exact ⟨wirePollResp (payloadOf B), hexec, rfl, rfl, hrh', htp', htr', toNat_ambientLight (B 6),
    hbit7 (B 3), toNat_getLsbD (B 3) 6, hbit7 (B 6)⟩

/-! ### What a DEC.x leaves (R102, R106, R108, R110) -/

section
variable {r : Result} {s t : State} {len : Nat} {nb : Bool} {Ok : (Nat → Byte) → Prop} {rejected : State}
  {accepted : Payload → State}

/-- A DEC.x has rejected, or has accepted the bytes of BUF, or is stuck where BUF lacks one of them. -/
theorem DecodesTo.cases (h : DecodesTo r s len nb Ok rejected accepted) :
    r = .next (rejected.setRes 0x00) ∨
    (∃ B, HasBytes s.buf 8 B ∧ Ok B ∧ r = .next ((accepted (payloadOf B)).setRes 0x08)) ∨
    ((nb = false ∧ 8 ≤ len ∧ ¬ Specified 8 s.buf) ∧ ∃ f, r = .fault f) := by
  obtain ⟨hshort, hframe, hstuck⟩ := h
  by_cases hlen : nb = true ∨ len < 8
  · exact .inl (hshort hlen)
  obtain ⟨hnb, hlen⟩ : nb = false ∧ 8 ≤ len := by simpa using hlen
  by_cases hs : Specified 8 s.buf
  · obtain ⟨B, hB⟩ := exists_hasBytes hs
    obtain ⟨hok, hbad⟩ := hframe hnb hlen B hB
    by_cases hOk : Ok B
    · exact .inr (.inl ⟨B, hB, hOk, hok hOk⟩)
    · exact .inl (hbad hOk)
  · obtain ⟨a, -, -, hfault⟩ := hstuck hnb hlen hs
    exact .inr (.inr ⟨⟨hnb, hlen, hs⟩, _, hfault⟩)

theorem DecodesTo.eq_rejected (h : DecodesTo r s len nb Ok rejected accepted) (hr : r = .next t) (ht : t.res ≠ 0x08) :
    t = rejected.setRes 0x00 := by
  subst hr
  obtain hrej | ⟨B, -, -, hacc⟩ | ⟨-, f, hfault⟩ := h.cases
  · exact Host.Outcome.next.inj hrej
  · cases hacc
    exact absurd rfl ht
  · cases hfault

theorem DecodesTo.eq_accepted {B : Nat → Byte} (h : DecodesTo r s len nb Ok rejected accepted) (hB : HasBytes s.buf 8 B)
    (hr : r = .next t) (ht : t.res = 0x08) : t = (accepted (payloadOf B)).setRes 0x08 := by
  subst hr
  obtain hrej | ⟨B', hB', -, hacc⟩ | ⟨-, f, hfault⟩ := h.cases
  · cases hrej
    exact absurd ht (by decide : (0x00 : Byte) ≠ 0x08)
  · have hframe := Except.ok.inj ((readFrame_of_hasBytes hB').symm.trans (readFrame_of_hasBytes hB))
    have hpayload : payloadOf B' = payloadOf B := congrArg Frame.payload hframe
    rw [← hpayload]
    exact Host.Outcome.next.inj hacc
  · cases hfault

/-- R110, for a DEC.x neither of whose outcomes writes BUF. -/
theorem DecodesTo.total (h : DecodesTo r s len nb Ok rejected accepted) (hrej : rejected.buf = s.buf)
    (hacc : ∀ b, (accepted b).buf = s.buf) :
    ((nb = true ∨ len < 8 ∨ Specified 8 s.buf) →
      ∃ t, r = .next t ∧ (t.res = 0x00 ∨ t.res = 0x08) ∧ ∀ a, Memory.read t.buf a = Memory.read s.buf a) ∧
    (nb = false → 8 ≤ len → ¬ Specified 8 s.buf → StuckBelow r s 8) := by
  refine ⟨fun hready => ?_, h.2.2⟩
  obtain hr | ⟨B, -, -, hr⟩ | ⟨⟨hnb, hlen, hs⟩, -⟩ := h.cases
  · exact ⟨_, hr, .inl rfl, fun a => congrArg (Memory.read · a) hrej⟩
  · exact ⟨_, hr, .inr rfl, fun a => congrArg (Memory.read · a) (hacc _)⟩
  · exact absurd hready (by simp [hnb, hlen, hs])

end

/-- Settles O31: a DEC.x that goes on without 0x08 has rejected, and left the state ForceInvalid gives (R99). -/
theorem failedDecodeState : Obligations.FailedDecodeState := by
  unfold Obligations.FailedDecodeState
  intro len ck nb s t
  exact ⟨(decA_decodesTo len ck nb s).eq_rejected, (decP_decodesTo len ck nb s).eq_rejected,
    (decR_decodesTo len ck nb s).eq_rejected⟩

theorem houseCodeValid_eq_false_iff {a b : Byte} : houseCodeValid a b = false ↔ a = 0xFF ∨ b = 0xFF := by
  rw [← Bool.not_eq_true, houseCodeValid_iff]
  tauto

/-- Settles O32: the message accepted is that of the frame, whose house code is bytes 1 and 2. -/
theorem acceptedFrameAssignsHouseCode : Obligations.AcceptedFrameAssignsHouseCode := by
  unfold Obligations.AcceptedFrameAssignsHouseCode
  intro len ck nb s t B hB ht
  refine ⟨fun hexec => ?decA, fun hexec => ?decP, fun hexec => ?decR⟩
  case decA =>
    obtain rfl := (decA_decodesTo len ck nb s).eq_accepted hB hexec ht
    rw [State.setRes_instA, State.setInstA_instA]
    exact ⟨rfl, rfl, houseCodeValid_eq_false_iff⟩
  case decP =>
    obtain rfl := (decP_decodesTo len ck nb s).eq_accepted hB hexec ht
    rw [State.setRes_instP, State.setInstP_instP]
    exact ⟨rfl, rfl, houseCodeValid_eq_false_iff⟩
  case decR =>
    obtain rfl := (decR_decodesTo len ck nb s).eq_accepted hB hexec ht
    rw [State.setRes_instR, State.setInstR_instR]
    exact ⟨rfl, rfl, houseCodeValid_eq_false_iff⟩

/-- Settles O54: the frame is accepted, none of the checks being of the house code, and acceptedFrameAssignsHouseCode says
what that assigns. -/
theorem wireHouseCodeOf0xFFIsAccepted : Obligations.WireHouseCodeOf0xFFIsAccepted := by
  unfold Obligations.WireHouseCodeOf0xFFIsAccepted
  intro len ck s B hlen hB hFF
  refine ⟨fun hok => ?decA, fun hok => ?decP, fun hok => ?decR⟩
  case decA =>
    have hexec := ((decA_decodesTo len ck false s).2.1 rfl hlen B hB).1 hok
    obtain ⟨h1, h2, hvalid⟩ := (acceptedFrameAssignsHouseCode len ck false s _ B hB rfl).1 hexec
    exact ⟨_, hexec, rfl, h1, h2, hvalid.mpr hFF⟩
  case decP =>
    have hexec := ((decP_decodesTo len ck false s).2.1 rfl hlen B hB).1 hok
    obtain ⟨h1, h2, hvalid⟩ := (acceptedFrameAssignsHouseCode len ck false s _ B hB rfl).2.1 hexec
    exact ⟨_, hexec, rfl, h1, h2, hvalid.mpr hFF⟩
  case decR =>
    have hexec := ((decR_decodesTo len ck false s).2.1 rfl hlen B hB).1 hok
    obtain ⟨h1, h2, hvalid⟩ := (acceptedFrameAssignsHouseCode len ck false s _ B hB rfl).2.2 hexec
    exact ⟨_, hexec, rfl, h1, h2, hvalid.mpr hFF⟩

/-- Settles O33: R110 of each variant; ForceInvalid and the assignment write INST_x only. -/
theorem decodeTotality : Obligations.DecodeTotality := by
  unfold Obligations.DecodeTotality
  simp only [List.forall_mem_cons, List.not_mem_nil, false_imp_iff, implies_true, and_true]
  refine ⟨?decA, ?decP, ?decR⟩ <;> intro len ck nb s
  case decA => exact (decA_decodesTo len ck nb s).total rfl fun _ => rfl
  case decP => exact (decP_decodesTo len ck nb s).total rfl fun _ => rfl
  case decR => exact (decR_decodesTo len ck nb s).total rfl fun _ => rfl

end Machine
end Sys2Proof

/-! PROOF. Encode, then decode (R109): each unpacker gives back the message its packer packed, and the frame ENC.x stores
passes the checks of DEC.x under every value of the parameters. -/

namespace Sys2Proof
namespace Machine

/-! ### The packed fields come back (R60, R62, R64) -/

theorem lightFlash_packLight (lf : BitVec 2) (lt : BitVec 4) (lc : BitVec 2) : lightFlash (packLight lf lt lc) = lf := by
  rw [← BitVec.toNat_inj, toNat_lightFlash, toNat_packLight]
  omega

theorem lightOnTime_packLight (lf : BitVec 2) (lt : BitVec 4) (lc : BitVec 2) : lightOnTime (packLight lf lt lc) = lt := by
  rw [← BitVec.toNat_inj, toNat_lightOnTime, toNat_packLight]
  omega

theorem lightColour_packLight (lf : BitVec 2) (lt : BitVec 4) (lc : BitVec 2) : lightColour (packLight lf lt lc) = lc := by
  rw [← BitVec.toNat_inj, toNat_lightColour, toNat_packLight]
  omega

/-- The window and switch bits of PollResponse byte 3: a stored humidity below 64 leaves them alone (R62). -/
theorem getLsbD_packHumidity (w s : Bool) {rh : BitVec 6} (h : rh.toNat ≤ 50) :
    (packHumidity w s rh).getLsbD 7 = w ∧ (packHumidity w s rh).getLsbD 6 = s := by
  have hlt : (rh.setWidth 8 + 1).toNat < 2 ^ 6 := by bv_omega
  have h6 : (rh.setWidth 8 + 1).getLsbD 6 = false := Nat.testBit_lt_two_pow hlt
  have h7 : (rh.setWidth 8 + 1).getLsbD 7 = false := Nat.testBit_lt_two_pow (Nat.lt_trans hlt (by decide))
  rw [packHumidity, BitVec.getLsbD_or, BitVec.getLsbD_or, BitVec.getLsbD_or, BitVec.getLsbD_or, h6, h7]
  cases w <;> cases s <;> decide

theorem getLsbD_packAmbient (sy : Bool) (al : BitVec 6) : (packAmbient sy al).getLsbD 7 = sy := by
  have hal : (al.setWidth 8 <<< 1).getLsbD 7 = false := by simp
  rw [packAmbient, BitVec.getLsbD_or, hal]
  cases sy <;> decide

/-! ### Unpacking a packed message -/

theorem unpackAlert_packAlert (p : Params) (x : Alert) : unpackAlert p (packAlert x) = some x :=
  unpackAlert_eq_some.mpr ⟨⟨rfl, fun _ => ⟨rfl, rfl, rfl⟩⟩, rfl⟩

theorem unpackPollCmd_packPollCmd (p : Params) {x : PollCmd} (h : x.Legal) : unpackPollCmd p (packPollCmd x) = some x := by
  obtain ⟨hrp, hlt, hlf⟩ := h
  have hb3 : (x.rp.setWidth 8 + 1).toNat = x.rp.toNat + 1 := by bv_omega
  have hb4 := toNat_packLight x.lf x.lt x.lc
  have hfields : wirePollCmd (packPollCmd x) = x := by
    simp [wirePollCmd, packPollCmd, lightFlash_packLight, lightOnTime_packLight, lightColour_packLight]
  refine unpackPollCmd_eq_some.mpr ⟨?_, hfields.symm⟩
  simp only [packPollCmd, hb3, hb4, Config.reservedByte, implies_true, and_true]
  omega

theorem unpackPollResp_packPollResp {x : PollResp} (h : x.Legal) : unpackPollResp (packPollResp x) = some x := by
  obtain ⟨hrh, htp, htr, hal1, hal62⟩ := h
  obtain ⟨hw, hs⟩ := getLsbD_packHumidity x.w x.s hrh
  have hfields : wirePollResp (packPollResp x) = x := by
    simp only [wirePollResp, packPollResp, hw, hs, getLsbD_packAmbient, storedHumidity_packHumidity,
      ambientLight_packAmbient, BitVec.add_sub_cancel]
  refine unpackPollResp_eq_some.mpr ⟨?_, hfields.symm⟩
  rw [← toNat_storedHumidity, ← toNat_ambientLight, packPollResp, storedHumidity_packHumidity, ambientLight_packAmbient]
  dsimp only
  bv_omega

/-! ### The round trip -/

/-- DEC.x accepts the frame an ENC.x with a checksum has stored, where its unpacker gives the message back. -/
theorem decodeFrame_of_encoded {α : Type} {p : Params} {b : Payload} {unpack : Payload → Option α} {x : α}
    (force : State → State) (assign : State → α → State) {s : State} (h : unpack b = some x) :
    ∃ t, encodeFrame p b 8 true false s = .next t ∧
      decodeFrame p b.b0 unpack force assign 8 false t = .next ((assign (force t) x).setRes 0x08) := by
  refine ⟨(s.setBuf (encodedBuf p b true s.buf)).setRes 8, encodeFrame_eq p b 8 true false s, ?_⟩
  have hread : readFrame (encodedBuf p b true s.buf) = .ok { payload := b, check := checksum p b } := by
    simp [readFrame_eq_ok, readPayload_eq_ok, read_encodedBuf, Payload.byte]
  have hvalid : validateFrame p b.b0 unpack { payload := b, check := checksum p b } = some x :=
    validateFrame_eq_some.mpr ⟨rfl, h, rfl⟩
  have hverdict : decodeVerdict p b.b0 unpack 8 false (encodedBuf p b true s.buf) = .ok (some x) := by
    rw [decodeVerdict, if_neg (by decide), hread]
    exact congrArg Except.ok hvalid
  rw [decodeFrame_eq, State.setRes_buf, State.setBuf_buf, hverdict]

/-- Settles O34: every Alert unpacks to itself; at Config.params the two operations are the commands. -/
theorem alertRoundTrip : Obligations.AlertRoundTrip := by
  unfold Obligations.AlertRoundTrip
  have hround (p : Params) (s : State) :
      ∃ t u, encodeFrame p (packAlert s.instA) 8 true false s = .next t ∧ decodeAlert p 8 false t = .next u ∧
        u.res = 0x08 ∧ u.instA = s.instA := by
    obtain ⟨t, henc, hdec⟩ :=
      decodeFrame_of_encoded forceInvalidA State.setInstA (s := s) (unpackAlert_packAlert p s.instA)
    exact ⟨t, _, henc, hdec, rfl, State.setInstA_instA _ _⟩
  exact ⟨hround, fun s _ => hround Config.params s⟩

/-- Settles O35: a legal PollAndCommand unpacks to itself; at Config.params the two operations are the commands. -/
theorem pollCmdRoundTrip : Obligations.PollCmdRoundTrip := by
  unfold Obligations.PollCmdRoundTrip
  have hround (p : Params) (s : State) (hlegal : s.instP.Legal) :
      ∃ t u, encodeFrame p (packPollCmd s.instP) 8 true false s = .next t ∧ decodePollCmd p 8 false t = .next u ∧
        u.res = 0x08 ∧ u.instP = s.instP := by
    obtain ⟨t, henc, hdec⟩ :=
      decodeFrame_of_encoded forceInvalidP State.setInstP (s := s) (unpackPollCmd_packPollCmd p hlegal)
    exact ⟨t, _, henc, hdec, rfl, State.setInstP_instP _ _⟩
  exact ⟨hround, fun s _ => hround Config.params s⟩

/-- Settles O36: a legal PollResponse unpacks to itself; at Config.params the two operations are the commands. -/
theorem pollRespRoundTrip : Obligations.PollRespRoundTrip := by
  unfold Obligations.PollRespRoundTrip
  have hround (p : Params) (s : State) (hlegal : s.instR.Legal) :
      ∃ t u, encodeFrame p (packPollResp s.instR) 8 true false s = .next t ∧ decodePollResp p 8 false t = .next u ∧
        u.res = 0x08 ∧ u.instR = s.instR := by
    obtain ⟨t, henc, hdec⟩ :=
      decodeFrame_of_encoded forceInvalidR State.setInstR (s := s) (unpackPollResp_packPollResp hlegal)
    exact ⟨t, _, henc, hdec, rfl, State.setInstR_instR _ _⟩
  exact ⟨hround, fun s _ => hround Config.params s⟩

end Machine
end Sys2Proof

/-! PROOF. Reset, before and after it has been applied (R123, R125): a reset access has the same answer either way, and
before the first one no other access has any. -/

namespace Sys2Proof
namespace Machine

/-! ### What an access answers, by whether reset has been applied -/

theorem hostAccess_unready {a : HostAccess} {s : State} (h : s.resetDone = false) :
    hostAccess a s = serveBeforeReset a s := by
  simp [hostAccess, h]

theorem hostAccess_reset (s : State) : hostAccess .reset s = .next (applyReset s) := by
  cases h : s.resetDone with
  | false => exact hostAccess_unready h
  | true => exact hostAccess_ready h

/-- A reset that arrives while w runs discards what w would have done (R123; log 13). -/
theorem hostAccess_resetDuring (w : CmdWord) (s : State) : hostAccess (.resetDuring w) s = .next (applyReset s) := by
  cases h : s.resetDone with
  | false => exact hostAccess_unready h
  | true => exact hostAccess_ready h

theorem serveBeforeReset_fault {a : HostAccess} (hreset : a ≠ .reset) (hduring : ∀ w, a ≠ .resetDuring w) (s : State) :
    serveBeforeReset a s = .fault .beforeReset := by
  cases a with
  | reset => exact absurd rfl hreset
  | resetDuring w => exact absurd rfl (hduring w)
  | command | writeBuf | writeArg | writeStatus | writeOut | writeRes => rfl
  | readBuf | readArg | readOut | readRes | readStatus | readCmd => rfl

/-! ### The step -/

theorem step_of_reset {s : State} {rest : List HostAccess}
    (h : s.port = .reset :: rest ∨ ∃ w, s.port = .resetDuring w :: rest) :
    step s = .next (applyReset (s.setPort rest)) := by
  obtain hp | ⟨w, hp⟩ := h
  · exact (step_cons hp).trans (hostAccess_reset _)
  · exact (step_cons hp).trans (hostAccess_resetDuring w _)

/-- Settles O52: both reset accesses lead to applyReset, whose fields are those of State.reset. -/
theorem resetRestoresEverything : Obligations.ResetRestoresEverything := by
  unfold Obligations.ResetRestoresEverything
  intro s rest h
  exact ⟨_, step_of_reset h, applyReset_instAs _, applyReset_instPs _, applyReset_instRs _, applyReset_buf _,
    applyReset_arg _, applyReset_out _, applyReset_res _, applyReset_status _, applyReset_resetDone _⟩

/-- Settles O53: taking the access off the port does not reset the block, and unreset it answers to reset alone. -/
theorem nothingRunsBeforeReset : Obligations.NothingRunsBeforeReset := by
  unfold Obligations.NothingRunsBeforeReset
  intro s a rest hunready hp hreset hduring
  calc step s
    _ = hostAccess a (s.setPort rest) := step_cons hp
    _ = serveBeforeReset a (s.setPort rest) := hostAccess_unready hunready
    _ = .fault .beforeReset := serveBeforeReset_fault hreset hduring _

end Machine
end Sys2Proof
